-- ==== Sys2Proof/Word.lean ====
section
/-! DEFINITION. The unsigned widths of the block (spec/00_scope.md R5): every value of the protocol core is a `u8`,
a `u32`, a `u64`, one bit or a natural number. -/

namespace Sys2Proof

/-- An 8-bit unsigned value: a byte, a bus address, a register address, a CRC. -/
abbrev U8 := BitVec 8

/-- A 32-bit unsigned value: a payload, a request datagram. -/
abbrev U32 := BitVec 32

/-- A 64-bit unsigned value: a write or response datagram, a raw reply. -/
abbrev U64 := BitVec 64

end Sys2Proof
end

