-- ==== Sys2Proof/Config.lean ====
section
/-! DEFINITION. The parameters of an instance (spec/00_scope.md R4, spec/10_state.md R18), their default values, the one
number the spec leaves open, and the failure sentinels. -/

namespace Sys2Proof

/-- Who sets bit 7 of the register field (spec/93_implementation_defined.md U3).
`force` is the rule (30_encoding.md R55, D7); `copy` is the other reading, which 93 asks a cautious model to keep. -/
inductive FlagPolicy where
  | force
  | copy
  deriving DecidableEq, Repr

/-- The parameter set that configures an instance, "fixed for the life of an instance" (10_state.md R18), with the flag
policy of 93_implementation_defined.md U3 beside it. Every function of the model takes it as an argument, so that a
statement holds for every choice of the values (00_scope.md R4, D1 to D5). -/
structure Params where
  /-- SYNC, the fixed first byte of every outgoing datagram. -/
  sync : U8
  /-- SEED[0], the CRC start seed of bus address 0. -/
  seed0 : U8
  /-- SEED[1]. -/
  seed1 : U8
  /-- SEED[2]. -/
  seed2 : U8
  /-- SEED[3]. -/
  seed3 : U8
  /-- SEED_OTHER, the seed of every other bus address. -/
  seedOther : U8
  /-- RSEED, the seed used when a response is checked (40_crc_engine.md R73). -/
  rseed : U8
  /-- POLY, the CRC polynomial without its x^8 term. -/
  poly : U8
  /-- REPLY_BUDGET, the start value of the reply countdown. -/
  replyBudget : Nat
  /-- POLL_DELAY_US, the argument of each poll delay. -/
  pollDelayUs : Nat
  /-- ECHO_DELAY_US, the argument of the turnaround delay; the spec leaves it open (D5). -/
  echoDelayUs : Nat
  /-- FLAG_POLICY of 93_implementation_defined.md U3. -/
  flagPolicy : FlagPolicy
  deriving DecidableEq, Repr

/-- FREE VALUE. ECHO_DELAY_US is OPEN (00_scope.md R4, D5): "one byte-time", no number. No proof can see it. -/
opaque Config.echoDelayUs : Nat

/-- The default parameters of 00_scope.md R4. PRESUMED (by the spec, from outside its source): `sync`, the seeds and
`rseed` (D1, D2, D3; log 2). -/
def Params.default : Params where
  sync := 0x05#8
  seed0 := 0x18#8
  seed1 := 0x91#8
  seed2 := 0xDF#8
  seed3 := 0x56#8
  seedOther := 0x00#8
  rseed := 0xEB#8
  poly := 0x07#8
  replyBudget := 250
  pollDelayUs := 1
  echoDelayUs := Config.echoDelayUs
  flagPolicy := .force

/-- What 00_scope.md R4 asks of the seeds: SEED[0..3] are "four distinct nonzero values". -/
def Params.seedsDistinctNonzero (p : Params) : Bool :=
  p.seed0 != 0 && p.seed1 != 0 && p.seed2 != 0 && p.seed3 != 0 &&
  p.seed0 != p.seed1 && p.seed0 != p.seed2 && p.seed0 != p.seed3 &&
  p.seed1 != p.seed2 && p.seed1 != p.seed3 && p.seed2 != p.seed3

/-- SENTINEL32, "no valid data" at 32 bits (10_state.md R17: normative, bit for bit). DESIGN CHOICE (log 25): a constant and
no field of `Params`, where the table of 00_scope.md R4 lists it and the list of 10_state.md R18 does not. -/
def sentinel32 : U32 := 0xFFFFFFFF#32

/-- SENTINEL64, "no valid data" at 64 bits (10_state.md R17). DESIGN CHOICE (log 25): a constant, as `sentinel32`. -/
def sentinel64 : U64 := 0xFFFFFFFFFFFFFFFF#64

end Sys2Proof
end

