-- ==== Sys2Proof/Syntax.lean ====
section
/-! DEFINITION. The instructions: one constructor per row of spec/opcode_table.json. Eleven operations
(spec/30_encoding.md R58) and the three datagram formats of the wire (R51, R52, R53). -/

namespace Sys2Proof

/-- One row of the opcode table each. The first eleven are the operations a caller presents; the last three are whole
datagrams seen on the shared wire (log 6), their fields in wire-byte order. -/
inductive Instr where
  /-- `byteCRC(byte, seed)`, 40_crc_engine.md R70. -/
  | byteCRC (byte seed : U8)
  /-- `wordCRC(value, seed)`, R71. -/
  | wordCRC (value : U32) (seed : U8)
  /-- `startSeed(address)`, R72. -/
  | startSeed (address : U8)
  /-- `reverseBytes(x)`, 41_datagram_codec.md R80. -/
  | reverseBytes (x : U32)
  /-- `encodeWrite(address, reg, value)`, R82. -/
  | encodeWrite (address reg : U8) (value : U32)
  /-- `encodeRequest(address, reg)`, R83. -/
  | encodeRequest (address reg : U8)
  /-- `decodeResponse(raw)`, R84. -/
  | decodeResponse (raw : U64)
  /-- `write(channel, address, reg, value)`, 42_transport_driver.md R92; `channel` is CHAN_PRESENT. -/
  | write (channel : Bool) (address reg : U8) (value : U32)
  /-- `request(channel, address, reg)`, R93. -/
  | request (channel : Bool) (address reg : U8)
  /-- `awaitReply(channel)`, R94. -/
  | awaitReply (channel : Bool)
  /-- `read(channel, address, reg)`, R95. -/
  | read (channel : Bool) (address reg : U8)
  /-- WRITE_DATAGRAM, 30_encoding.md R51: wire byte 0, byte 1, byte 2, the field `[55:24]`, the CRC byte. -/
  | writeDatagram (sync address field : U8) (payload : U32) (crc : U8)
  /-- REQUEST_DATAGRAM, R52: wire byte 0, byte 1, byte 2, the CRC byte. -/
  | requestDatagram (sync address field : U8) (crc : U8)
  /-- RESPONSE_DATAGRAM, R53: wire bytes 0 and 1 (not examined), the echoed register field, the field `[55:24]`, the
  received CRC. -/
  | responseDatagram (sync address field : U8) (payload : U32) (crc : U8)
  deriving DecidableEq, Repr

/-- The eleven operations of 30_encoding.md R58: what the register OP holds (10_state.md R11). -/
inductive Op where
  | byteCRC
  | wordCRC
  | startSeed
  | reverseBytes
  | encodeWrite
  | encodeRequest
  | decodeResponse
  | write
  | request
  | awaitReply
  | read
  deriving DecidableEq, Repr

end Sys2Proof
end

