-- ==== Sys2Proof/WellFormed.lean ====
section
/-! DEFINITION. What makes a term of `Instr` a row of the table: the fixed bits of the two outgoing datagram formats
(spec/30_encoding.md R51, R52). Every operand value of an operation is legal (R59, R60; 41_datagram_codec.md R82, R83,
R87), and no bit of a response is fixed (R53). -/

namespace Sys2Proof

/-- Wire byte 0 of an outgoing datagram is SYNC (R51, R52). -/
def syncOk (p : Params) (sync : U8) : Bool := sync == p.sync

/-- Bit 7 of wire byte 2 is the write flag: 1 in a write datagram, 0 in a request (R51, R52, R64). -/
def writeFlag (field : U8) : Bool := field.getLsbD 7

/-- The instruction is one the table's encodings admit, on an instance with parameters `p`. -/
def Instr.wf (p : Params) : Instr → Bool
  | .byteCRC _ _ => true
  | .wordCRC _ _ => true
  | .startSeed _ => true
  | .reverseBytes _ => true
  | .encodeWrite _ _ _ => true
  | .encodeRequest _ _ => true
  | .decodeResponse _ => true
  | .write _ _ _ _ => true
  | .request _ _ _ => true
  | .awaitReply _ => true
  | .read _ _ _ => true
  | .writeDatagram sync _ field _ _ => syncOk p sync && writeFlag field
  | .requestDatagram sync _ field _ => syncOk p sync && !writeFlag field
  | .responseDatagram _ _ _ _ _ => true

end Sys2Proof
end

