-- ==== Sys2Proof/Decode.lean ====
section
/-! DEFINITION. Decoding: what the outside presents at the block's two interfaces, read as an instruction or rejected by
name; after it the encoder. The host interface presents a 4-bit operation code with its operands "on separate operand
registers, not packed into a word" (spec/opcode_table.json; spec/30_encoding.md R58); the wire presents bytes
(R51 to R54). -/

namespace Sys2Proof

/-- The operand inputs of the host interface, one per operand name of the table. An operation reads its own and ignores
the others (30_encoding.md R58). -/
structure Operands where
  channel : Bool
  byte : U8
  seed : U8
  address : U8
  reg : U8
  value : U32
  x : U32
  raw : U64
  deriving DecidableEq, Repr

/-- All operand inputs zero. -/
def Operands.zero : Operands :=
  { channel := false, byte := 0, seed := 0, address := 0, reg := 0, value := 0, x := 0, raw := 0 }

/-- Which way a datagram travels on the shared wire: the block's own transmission coming back, or the remote device's
answer. DESIGN CHOICE (log 7): the bytes alone cannot tell a response from a write datagram. -/
inductive Direction where
  | echo
  | reply
  deriving DecidableEq, Repr

/-- What the outside presents, one item at a time: an operation at the host interface (10_state.md R21), or a run of
bytes on the wire, first byte first. -/
inductive Frame where
  | command (code : BitVec 4) (operands : Operands)
  | wire (dir : Direction) (bytes : List U8)
  deriving DecidableEq, Repr

/-- Why a frame is no instruction of the table. -/
inductive Reject where
  /-- The operation code selects nothing (30_encoding.md R58, R63). -/
  | unassignedCode (code : BitVec 4)
  /-- The number of bytes is that of no datagram in this direction (R50, R64). -/
  | wrongLength (n : Nat)
  /-- Byte 0 of an outgoing datagram is not SYNC (R51, R52). -/
  | notSync (byte : U8)
  /-- The write flag does not match the datagram's length (R51, R52, R64). -/
  | wrongFlag (field : U8)
  deriving DecidableEq, Repr

/-- The 4-bit code of an operation (30_encoding.md R58). -/
def Op.code : Op → BitVec 4
  | .byteCRC => 0x0#4
  | .wordCRC => 0x1#4
  | .startSeed => 0x2#4
  | .reverseBytes => 0x3#4
  | .encodeWrite => 0x4#4
  | .encodeRequest => 0x5#4
  | .decodeResponse => 0x6#4
  | .write => 0x8#4
  | .request => 0x9#4
  | .awaitReply => 0xA#4
  | .read => 0xB#4

/-- The eleven rows of 30_encoding.md R58, in the table's order. -/
def Op.all : List Op :=
  [.byteCRC, .wordCRC, .startSeed, .reverseBytes, .encodeWrite, .encodeRequest, .decodeResponse,
   .write, .request, .awaitReply, .read]

/-- The operation a code selects; codes 0x7 and 0xC to 0xF select nothing (R63). -/
def Op.ofCode (c : BitVec 4) : Option Op := Op.all.find? (fun op => op.code == c)

/-- The operation with the operands it takes (30_encoding.md R58). -/
def Op.instr : Op → Operands → Instr
  | .byteCRC, o => .byteCRC o.byte o.seed
  | .wordCRC, o => .wordCRC o.value o.seed
  | .startSeed, o => .startSeed o.address
  | .reverseBytes, o => .reverseBytes o.x
  | .encodeWrite, o => .encodeWrite o.address o.reg o.value
  | .encodeRequest, o => .encodeRequest o.address o.reg
  | .decodeResponse, o => .decodeResponse o.raw
  | .write, o => .write o.channel o.address o.reg o.value
  | .request, o => .request o.channel o.address o.reg
  | .awaitReply, o => .awaitReply o.channel
  | .read, o => .read o.channel o.address o.reg

/-- Read an operation code with its operands. -/
def decodeCommand (code : BitVec 4) (o : Operands) : Except Reject Instr :=
  match Op.ofCode code with
  | some op => .ok (op.instr o)
  | none => .error (.unassignedCode code)

/-- Wire bytes 3 to 6 as the field `[55:24]` of the datagram word: byte 3 is bits 31:24 of the word (R51, R53). -/
def payloadOfBytes (b3 b4 b5 b6 : U8) : U32 := b6 ++ b5 ++ b4 ++ b3

/-- Byte `k` of the payload field, `d[8*k+7:8*k]`: wire byte `3 + k` (R51). -/
def payloadByte (d : U32) (k : Nat) : U8 := d.extractLsb' (8 * k) 8

/-- Read a 4-byte request datagram (R52). -/
def decodeRequestBytes (p : Params) (sync address field crc : U8) : Except Reject Instr :=
  if !syncOk p sync then .error (.notSync sync)
  else if writeFlag field then .error (.wrongFlag field)
  else .ok (.requestDatagram sync address field crc)

/-- Read an 8-byte write datagram (R51). -/
def decodeWriteBytes (p : Params) (sync address field : U8) (payload : U32) (crc : U8) : Except Reject Instr :=
  if !syncOk p sync then .error (.notSync sync)
  else if !writeFlag field then .error (.wrongFlag field)
  else .ok (.writeDatagram sync address field payload crc)

/-- Read the bytes of a datagram. Outgoing: 4 bytes are a request, 8 bytes a write (R50, R64). Incoming: always 8 bytes,
no bit fixed (R53, R64). -/
def decodeWire (p : Params) (dir : Direction) (bytes : List U8) : Except Reject Instr :=
  match bytes with
  | [sync, address, field, crc] =>
    match dir with
    | .echo => decodeRequestBytes p sync address field crc
    | .reply => .error (.wrongLength 4)
  | [sync, address, field, b3, b4, b5, b6, crc] =>
    match dir with
    | .echo => decodeWriteBytes p sync address field (payloadOfBytes b3 b4 b5 b6) crc
    | .reply => .ok (.responseDatagram sync address field (payloadOfBytes b3 b4 b5 b6) crc)
  | bs => .error (.wrongLength bs.length)

/-- Read what is presented, on an instance with parameters `p`. Total; every rejection has a name. -/
def decode (p : Params) : Frame → Except Reject Instr
  | .command code o => decodeCommand code o
  | .wire dir bytes => decodeWire p dir bytes

/-- The frame of an instruction: an operation's code with its operands (the others zero), or a datagram's bytes in wire
order (R51 to R54, R58). -/
def encode : Instr → Frame
  | .byteCRC byte seed => .command Op.byteCRC.code { Operands.zero with byte := byte, seed := seed }
  | .wordCRC value seed => .command Op.wordCRC.code { Operands.zero with value := value, seed := seed }
  | .startSeed address => .command Op.startSeed.code { Operands.zero with address := address }
  | .reverseBytes x => .command Op.reverseBytes.code { Operands.zero with x := x }
  | .encodeWrite address reg value =>
      .command Op.encodeWrite.code { Operands.zero with address := address, reg := reg, value := value }
  | .encodeRequest address reg =>
      .command Op.encodeRequest.code { Operands.zero with address := address, reg := reg }
  | .decodeResponse raw => .command Op.decodeResponse.code { Operands.zero with raw := raw }
  | .write channel address reg value =>
      .command Op.write.code
        { Operands.zero with channel := channel, address := address, reg := reg, value := value }
  | .request channel address reg =>
      .command Op.request.code { Operands.zero with channel := channel, address := address, reg := reg }
  | .awaitReply channel => .command Op.awaitReply.code { Operands.zero with channel := channel }
  | .read channel address reg =>
      .command Op.read.code { Operands.zero with channel := channel, address := address, reg := reg }
  | .writeDatagram sync address field payload crc =>
      .wire .echo [sync, address, field, payloadByte payload 0, payloadByte payload 1, payloadByte payload 2,
        payloadByte payload 3, crc]
  | .requestDatagram sync address field crc => .wire .echo [sync, address, field, crc]
  | .responseDatagram sync address field payload crc =>
      .wire .reply [sync, address, field, payloadByte payload 0, payloadByte payload 1, payloadByte payload 2,
        payloadByte payload 3, crc]

/-- The first `n` bytes of a number, low byte first: a datagram word in wire order (20_memory.md R32). -/
def bytesOfNat : Nat → Nat → List U8
  | 0, _ => []
  | n + 1, w => BitVec.ofNat 8 w :: bytesOfNat n (w / 256)

/-- The frame that a row of the opcode table stands for, its bits numbered as the table numbers them (log 23): a row of
at most 8 bits is an operation code (its operands zero); a longer one is a datagram word. A word with SYNC in bits 7:0
is a write datagram when bit 23 is 1, and a request when bit 23 is 0 and the row has at most 32 bits (R51, R52, R64);
any other longer word is a response (R53). -/
def wordFrame (sync : U8) (nbits w : Nat) : Frame :=
  if nbits ≤ 8 then .command (BitVec.ofNat 4 w) Operands.zero
  else if BitVec.ofNat 8 w == sync && w.testBit 23 then .wire .echo (bytesOfNat 8 w)
  else if nbits ≤ 32 then .wire .echo (bytesOfNat 4 w)
  else .wire .reply (bytesOfNat 8 w)

/-- The instruction the decoder reads from a word of the opcode table, under the default parameters. -/
def decodeTableWord (nbits w : Nat) : Option Instr :=
  match decode Params.default (wordFrame Params.default.sync nbits w) with
  | .ok i => some i
  | .error _ => none

end Sys2Proof
end

