-- ==== Sys2Proof/Machine/State.lean ====
section
/-! DEFINITION. The state of the machine as plain data: the block's registers (spec/10_state.md R11, R12, R15), its
parameters (R18), the channel outside it (R20, spec/20_memory.md R45), what the host presents and what it was answered
(R21); the reasons a step can stop; the state after reset (R23). -/

namespace Sys2Proof.Machine

/-- PHASE, the only sequencing state of the block (10_state.md R15). -/
inductive Phase where
  | idle
  | sending
  | draining
  | waiting
  | complete
  | timedOut
  deriving DecidableEq, Repr

/-- The place inside a phase: which primitive call comes next. DEDUCED (log 12) from 42_transport_driver.md R102 to R104:
`first` is the call a phase makes once on entry (the flush, the echo delay); `test` is the `ChanAvail` of a loop; `act`
is the loop's other call (a byte to write, a byte to discard, a poll delay). -/
inductive Point where
  | first
  | test
  | act
  deriving DecidableEq, Repr

/-- The status of a completion (10_state.md R17). -/
inductive Status where
  | ok
  | channelAbsent
  | replyTimeout
  | crcMismatch
  deriving DecidableEq, Repr

/-- The value of a completion (10_state.md R14): none for `write` and `request`, else of the operation's result width. -/
inductive Result where
  | none
  | u8 (v : U8)
  | u32 (v : U32)
  | u64 (v : U64)
  deriving DecidableEq, Repr

/-- A completion event: what the caller is given, once (10_state.md R14, R21). -/
structure Completion where
  op : Op
  value : Result
  status : Status
  deriving DecidableEq, Repr

/-- A primitive call that returned, with its argument or its result (20_memory.md R35, 42_transport_driver.md R106). -/
inductive Call where
  | flush
  | write (byte : U8)
  | avail (count : Nat)
  | read (byte : U8)
  | delay (us : Nat)
  deriving DecidableEq, Repr

/-- How a primitive call in progress ends (log 8): it returns; it has not returned yet; or the block is reset meanwhile
(70_reset_and_hazards.md R132, log 16). -/
inductive CallEnd where
  | returns
  | pending
  | reset
  deriving DecidableEq, Repr

/-- What the channel does while one primitive call is in progress (20_memory.md R45 (c), (d)): the bytes that arrive, how
many pending bytes leave for the wire, and how the call ends. -/
structure Slot where
  arrivals : List U8
  transmits : Nat
  ending : CallEnd
  deriving DecidableEq, Repr

/-- The channel and the wire: "A model holds (a) to (c) in the environment" (10_state.md R20). -/
structure Env where
  /-- The receive buffer, oldest byte first. -/
  rx : List U8
  /-- Bytes handed to `ChanWrite` and not yet physically sent, oldest first. -/
  txPending : List U8
  /-- Bytes physically sent, oldest first. -/
  txSent : List U8
  /-- What the channel will do during the coming primitive calls, one slot a call (log 8). -/
  script : List Slot
  /-- What it does during every call after those. -/
  rest : Slot
  deriving DecidableEq, Repr

/-- The operand and working registers (10_state.md R11, R12), and the place inside the phase. All are dead in IDLE
(R16). -/
structure Regs where
  /-- OP: the operation in progress. -/
  op : Op
  /-- ADDR: the bus address operand. -/
  addr : U8
  /-- REG: the register address operand. -/
  reg : U8
  /-- VALUE: the data operand, native order. -/
  value : U32
  /-- CHAN_PRESENT, sampled at acceptance (R13). -/
  chanPresent : Bool
  /-- DGRAM: the datagram to send. -/
  dgram : U64
  /-- TXN: number of bytes to emit. -/
  txn : Nat
  /-- TXI: index of the next byte to emit. -/
  txi : Nat
  /-- CNT: the reply countdown (60_exceptions.md R119). -/
  cnt : Nat
  /-- RAW: the reply being assembled. -/
  raw : U64
  /-- RXI: index of the next reply byte to take. -/
  rxi : Nat
  /-- The place inside the phase (log 12). -/
  point : Point
  deriving DecidableEq, Repr

/-- The whole machine: the block (parameters, PHASE, registers), the channel beside it, what the outside presents, and the
record of what was done. Plain data. -/
structure State where
  /-- The instance's parameters; no step changes them (R18, R23; log 1). -/
  params : Params
  /-- PHASE. -/
  phase : Phase
  /-- The operand and working registers. -/
  regs : Regs
  /-- The channel outside the block. -/
  env : Env
  /-- What the outside presents next, oldest first (30_encoding.md R65; log 5). -/
  inbox : List Frame
  /-- The primitive calls that returned, oldest first (42_transport_driver.md R106; log 19). -/
  calls : List Call
  /-- The completion events presented to the caller, oldest first (log 19). -/
  completions : List Completion
  deriving DecidableEq, Repr

/-- Why the machine stops. -/
inductive Fault where
  /-- Raised by the channel when `ChanRead` is called on an empty receive buffer: 93_implementation_defined.md U4,
  "`fault` in the channel model". No operation reaches it from a state that meets the invariant. Safe (log 10). -/
  | readOnEmptyBuffer
  deriving DecidableEq, Repr

/-- Why a presented operation is not accepted. -/
inductive Refusal where
  /-- Raised by `exec` for an instruction that has no meaning yet: none in this model. Safe. -/
  | notModelled (mnemonic : String)
  /-- Raised by every operation presented while BUSY: 10_state.md R21, D13, U10 "not accepted". Safe (log 15). -/
  | busy (op : Op)
  /-- Raised by `step` for a command that decodes to nothing: 30_encoding.md R63, "does not accept them and a model
  refuses them". Safe. -/
  | undecodable (why : Reject)
  deriving DecidableEq, Repr

/-- A quiet channel's slot: nothing arrives, nothing leaves early, the call returns. -/
def Slot.quiet : Slot := { arrivals := [], transmits := 0, ending := .returns }

/-- The registers after reset. DESIGN CHOICE (log 4): the spec leaves them unspecified and dead (R23, R16). -/
def Regs.reset : Regs :=
  { op := .byteCRC, addr := 0, reg := 0, value := 0, chanPresent := false, dgram := 0, txn := 0, txi := 0, cnt := 0,
    raw := 0, rxi := 0, point := .first }

/-- The channel beside a block just reset. DESIGN CHOICE (log 8): empty buffers, and a quiet channel whose calls
return. -/
def Env.reset : Env :=
  { rx := [], txPending := [], txSent := [], script := [], rest := Slot.quiet }

/-- The machine right after reset: PHASE is IDLE (R23, 70_reset_and_hazards.md R130). -/
def State.reset : State :=
  { params := Params.default, phase := .idle, regs := Regs.reset, env := Env.reset, inbox := [], calls := [],
    completions := [] }

end Sys2Proof.Machine
end

