-- ==== Sys2Proof/Machine/Operands.lean ====
section
/-! DEFINITION. Operand forms: the bytes of a word (spec/00_scope.md R5), the register field (spec/30_encoding.md R55),
and the capture of operands at acceptance (spec/10_state.md R11). -/

namespace Sys2Proof.Machine

/-- Byte `i` of a word, `w[8*i+7:8*i]` (00_scope.md R5). -/
def byteAt (w : U64) (i : Nat) : U8 := w.extractLsb' (8 * i) 8

/-- The word with its byte `i` replaced: `w[8*i+7:8*i] <- b`. -/
def setByte (w : U64) (i : Nat) (b : U8) : U64 :=
  (w &&& ~~~((0xFF#64) <<< (8 * i))) ||| ((b.setWidth 64) <<< (8 * i))

/-- The first `n` bytes of a word in wire order, byte 0 first (20_memory.md R32). -/
def wireBytes (n : Nat) (w : U64) : List U8 := (List.range n).map (byteAt w)

/-- Bytes in the order received, assembled least significant byte first (20_memory.md R33). -/
def assemble : List U8 → U64
  | [] => 0
  | b :: bs => (assemble bs <<< 8) ||| b.setWidth 64

/-- The register field of a write datagram: `REG | 0x80` (R55, D7); `REG` under the other policy (U3). -/
def writeField (p : Params) (reg : U8) : U8 :=
  match p.flagPolicy with
  | .force => reg ||| 0x80#8
  | .copy => reg

/-- The register field of a request datagram: `REG & 0x7F` (R55, D7); `REG` under the other policy (U3). -/
def requestField (p : Params) (reg : U8) : U8 :=
  match p.flagPolicy with
  | .force => reg &&& 0x7F#8
  | .copy => reg

/-- Acceptance of `write`: OP, CHAN_PRESENT, ADDR, REG, VALUE (10_state.md R11). -/
def captureWrite (channel : Bool) (address reg : U8) (value : U32) (s : State) : State :=
  { s with regs := { s.regs with
      op := .write, chanPresent := channel, addr := address, reg := reg, value := value } }

/-- Acceptance of `request`: OP, CHAN_PRESENT, ADDR, REG (R11). -/
def captureRequest (channel : Bool) (address reg : U8) (s : State) : State :=
  { s with regs := { s.regs with op := .request, chanPresent := channel, addr := address, reg := reg } }

/-- Acceptance of `awaitReply`: OP, CHAN_PRESENT (R11). -/
def captureAwait (channel : Bool) (s : State) : State :=
  { s with regs := { s.regs with op := .awaitReply, chanPresent := channel } }

/-- Acceptance of `read`: OP, CHAN_PRESENT, ADDR, REG (R11). -/
def captureRead (channel : Bool) (address reg : U8) (s : State) : State :=
  { s with regs := { s.regs with op := .read, chanPresent := channel, addr := address, reg := reg } }

end Sys2Proof.Machine
end

