-- ==== Sys2Proof/Machine/Flags.lean ====
section
/-! DEFINITION. The block "has no condition codes and no sticky flags" (spec/10_state.md R17). What stands in their
place: the BUSY output (R18), and the numeric codes of PHASE (R15) and of the status (R17). -/

namespace Sys2Proof.Machine

/-- BUSY, "1 exactly when `PHASE != IDLE`" (10_state.md R18). -/
def State.busy (s : State) : Bool := s.phase != .idle

/-- The numeric code of a phase (10_state.md R15, D15). -/
def Phase.code : Phase → BitVec 3
  | .idle => 0#3
  | .sending => 1#3
  | .draining => 2#3
  | .waiting => 3#3
  | .complete => 4#3
  | .timedOut => 5#3

/-- The numeric code of a status (10_state.md R17, D9). -/
def Status.code : Status → Nat
  | .ok => 0
  | .channelAbsent => 1
  | .replyTimeout => 2
  | .crcMismatch => 3

end Sys2Proof.Machine
end

