-- ==== Sys2Proof/Machine/Crc.lean ====
section
/-! DEFINITION. The CRC engine's functions (spec/40_crc_engine.md R70 to R74). -/

namespace Sys2Proof.Machine

/-- One round (R70): `t` is the register's bit 7 xor the data bit; the register shifts left within 8 bits, and POLY is
folded in when `t` is 1. -/
def crcRound (poly s : U8) (d : Bool) : U8 :=
  if (s.getLsbD 7 ^^ d) then (s <<< 1) ^^^ poly else s <<< 1

/-- `n` rounds, data bit 0 first, the data shifting right (R70). -/
def crcRounds (poly : U8) : Nat → U8 → U8 → U8
  | 0, _, s => s
  | n + 1, b, s => crcRounds poly n (b >>> 1) (crcRound poly s (b.getLsbD 0))

/-- `byteCRC(byte, seed)` (R70): exactly 8 rounds. -/
def byteCRC (p : Params) (byte seed : U8) : U8 := crcRounds p.poly 8 byte seed

/-- `wordCRC(value, seed)` (R71): the four bytes, least significant first, each result seeding the next. -/
def wordCRC (p : Params) (value : U32) (seed : U8) : U8 :=
  byteCRC p (value.extractLsb' 24 8)
    (byteCRC p (value.extractLsb' 16 8)
      (byteCRC p (value.extractLsb' 8 8)
        (byteCRC p (value.extractLsb' 0 8) seed)))

/-- `startSeed(address)` (R72): all 8 bits of the address are compared. -/
def startSeed (p : Params) (address : U8) : U8 :=
  if address = 0x00#8 then p.seed0
  else if address = 0x01#8 then p.seed1
  else if address = 0x02#8 then p.seed2
  else if address = 0x03#8 then p.seed3
  else p.seedOther

end Sys2Proof.Machine
end

