-- ==== Sys2Proof/Machine/Codec.lean ====
section
/-! DEFINITION. The datagram codec's functions (spec/41_datagram_codec.md R80 to R85), over the layouts of
spec/30_encoding.md R51 to R57. -/

namespace Sys2Proof.Machine

/-- `reverseBytes(x)` (R80): byte 0 and byte 3 change places, byte 1 and byte 2 change places. -/
def reverseBytes (x : U32) : U32 :=
  x.extractLsb' 0 8 ++ x.extractLsb' 8 8 ++ x.extractLsb' 16 8 ++ x.extractLsb' 24 8

/-- The CRC byte of a write datagram (30_encoding.md R57): register field, then the payload in wire order. -/
def writeCrc (p : Params) (address field : U8) (pay : U32) : U8 :=
  wordCRC p pay (byteCRC p field (startSeed p address))

/-- The CRC byte of a request datagram (R57). -/
def requestCrc (p : Params) (address field : U8) : U8 := byteCRC p field (startSeed p address)

/-- The CRC a response must carry (R57): from RSEED, whatever the bus address (40_crc_engine.md R73). -/
def responseCrc (p : Params) (field : U8) (pay : U32) : U8 := wordCRC p pay (byteCRC p field p.rseed)

/-- `encodeWrite(address, reg, value)` (R82): `{crc, pay, rf, address, SYNC}`. -/
def encodeWrite (p : Params) (address reg : U8) (value : U32) : U64 :=
  writeCrc p address (writeField p reg) (reverseBytes value) ++ reverseBytes value ++ writeField p reg ++ address ++
    p.sync

/-- `encodeRequest(address, reg)` (R83): `{crc, rf, address, SYNC}`. -/
def encodeRequest (p : Params) (address reg : U8) : U32 :=
  requestCrc p address (requestField p reg) ++ requestField p reg ++ address ++ p.sync

/-- The echoed register field of a response, `P[23:16]` (30_encoding.md R53). -/
def responseField (raw : U64) : U8 := raw.extractLsb' 16 8

/-- The payload of a response in wire order, `P[55:24]` (R53). -/
def responsePayload (raw : U64) : U32 := raw.extractLsb' 24 32

/-- The received CRC of a response, `P[63:56]` (R53). -/
def receivedCrc (raw : U64) : U8 := raw.extractLsb' 56 8

/-- The received CRC equals the recomputed one (R84, 60_exceptions.md R113). -/
def crcMatches (p : Params) (raw : U64) : Bool :=
  receivedCrc raw == responseCrc p (responseField raw) (responsePayload raw)

/-- `decodeResponse(raw)` (R84): the all-ones test first, then the CRC; both failures give SENTINEL32. -/
def decodeResponse (p : Params) (raw : U64) : U32 × Status :=
  if raw = sentinel64 then (sentinel32, .replyTimeout)
  else if crcMatches p raw then (reverseBytes (responsePayload raw), .ok)
  else (sentinel32, .crcMismatch)

/-- A valid response (R85). -/
def validResponse (p : Params) (raw : U64) : Bool := raw != sentinel64 && crcMatches p raw

/-- The test-bench reply of R85: bytes 0 and 1 free, the register field, the value, a matching CRC. The block never
computes it. -/
def makeResponse (p : Params) (b0 b1 field : U8) (v : U32) : U64 :=
  responseCrc p field (reverseBytes v) ++ reverseBytes v ++ field ++ b1 ++ b0

end Sys2Proof.Machine
end

