-- ==== Sys2Proof/Machine/Ops.lean ====
section
/-! DEFINITION. The operations that the meanings share: acceptance and completion at the host interface
(spec/10_state.md R21, spec/60_exceptions.md R116), entry into each phase (spec/42_transport_driver.md R100), the reset
input (spec/70_reset_and_hazards.md R130 to R132), and the five channel primitives (spec/20_memory.md R35). The block has
no trap entry and no trap return: a failing operation ends by the same `complete` as a succeeding one (R116, R117). -/

namespace Sys2Proof.Machine

/-- One outcome of the machine. -/
abbrev StepResult := Host.Outcome State Fault Refusal

/-- Present a completion to the caller (10_state.md R14, R21). -/
def present (op : Op) (value : Result) (status : Status) (s : State) : State :=
  { s with completions := s.completions ++ [{ op := op, value := value, status := status }] }

/-- `complete(v, s)`: end the operation in progress, present its value and status, PHASE becomes IDLE
(00_scope.md R7, 60_exceptions.md R116). -/
def complete (value : Result) (status : Status) (s : State) : State :=
  { present s.regs.op value status s with phase := .idle }

/-- Acceptance is possible only in IDLE; a command offered while BUSY is not accepted (10_state.md R21, D13). -/
def accept (op : Op) (s : State) (k : State → StepResult) : StepResult :=
  if s.busy then .refused (.busy op) else k s

/-- A pure operation: acceptance and completion are one step, and no register is touched (10_state.md R21, R24,
41_datagram_codec.md R87; log 13). -/
def completePure (op : Op) (value : Result) (status : Status) (s : State) : StepResult :=
  accept op s fun s => .next (present op value status s)

/-- The reset input: PHASE becomes IDLE and nothing else changes; no primitive is called and no completion is
presented (70_reset_and_hazards.md R130, R131, R132). -/
def applyReset (s : State) : State := { s with phase := .idle }

/-- Entry into SENDING (42_transport_driver.md R102): DGRAM and TXN are set, TXI is 0. -/
def enterSending (w : U64) (n : Nat) (s : State) : State :=
  { s with phase := .sending, regs := { s.regs with dgram := w, txn := n, txi := 0, point := .first } }

/-- Entry into DRAINING (R103). -/
def enterDraining (s : State) : State :=
  { s with phase := .draining, regs := { s.regs with point := .first } }

/-- Entry into WAITING (R104). -/
def enterWaiting (s : State) : State :=
  { s with phase := .waiting, regs := { s.regs with point := .first } }

/-- Entry into COMPLETE (R94 step 5): RAW is 0, RXI is 0. -/
def enterComplete (s : State) : State :=
  { s with phase := .complete, regs := { s.regs with raw := 0, rxi := 0, point := .first } }

/-- Entry into TIMED_OUT (R94). -/
def enterTimedOut (s : State) : State :=
  { s with phase := .timedOut, regs := { s.regs with point := .first } }

/-- Move to another place of the phase. -/
def setPoint (pt : Point) (s : State) : State := { s with regs := { s.regs with point := pt } }

/-- What the channel does during the next primitive call. -/
def Env.slot (e : Env) : Slot :=
  match e.script with
  | [] => e.rest
  | x :: _ => x

/-- The channel after the time of one primitive call: the slot's bytes have arrived, its share of the pending bytes has
left (20_memory.md R45). -/
def Env.elapse (e : Env) : Env :=
  { e with
    rx := e.rx ++ e.slot.arrivals
    txPending := e.txPending.drop e.slot.transmits
    txSent := e.txSent ++ e.txPending.take e.slot.transmits
    script := e.script.tail }

/-- Time passes for one primitive call. -/
def elapse (s : State) : State := { s with env := s.env.elapse }

/-- One primitive call of the block: the channel acts meanwhile; the block goes on only when the call returns
(20_memory.md R39); a call that has not returned leaves the block where it is (70_reset_and_hazards.md R138); a reset
meanwhile abandons the operation (R132). DESIGN CHOICE (log 16): R132 speaks of bytes already handed over or consumed, not of
the call the reset cuts; here the cut call has no effect, so the byte of a `ChanWrite` in progress is not handed over and
the byte of a `ChanRead` in progress is not removed. Only the channel's own bytes move. -/
def call (s : State) (k : State → StepResult) : StepResult :=
  match s.env.slot.ending with
  | .returns => k (elapse s)
  | .pending => .next (elapse s)
  | .reset => .next (applyReset (elapse s))

/-- Record a primitive call that returned (42_transport_driver.md R106). -/
def record (c : Call) (s : State) : State := { s with calls := s.calls ++ [c] }

/-- The return of `ChanFlush()`: every byte handed over before has been physically sent (20_memory.md R35, R41). -/
def chanFlush (s : State) : State :=
  record .flush { s with env := { s.env with txSent := s.env.txSent ++ s.env.txPending, txPending := [] } }

/-- The return of `ChanWrite(b)`: one byte handed over for transmission (R35, R36). -/
def chanWrite (b : U8) (s : State) : State :=
  record (.write b) { s with env := { s.env with txPending := s.env.txPending ++ [b] } }

/-- The result of `ChanAvail()`: the count of received bytes buffered and not yet taken (R35). -/
def availCount (s : State) : Nat := s.env.rx.length

/-- The return of `ChanAvail()`: no side effect (R36). -/
def chanAvail (s : State) : State := record (.avail (availCount s)) s

/-- `ChanRead()`: the oldest buffered byte is removed and returned (R35, R36). On an empty buffer: the fault of
93_implementation_defined.md U4. The byte is the oldest of those buffered when the call is made (log 9). -/
def chanRead (s : State) (k : U8 → State → StepResult) : StepResult :=
  match s.env.rx with
  | [] => .fault .readOnEmptyBuffer
  | b :: _ => call s fun s =>
      k b (record (.read b) { s with env := { s.env with rx := s.env.rx.tail } })

/-- The return of `Delay(us)`: nothing but time has passed (R35, R36, 70_reset_and_hazards.md R144). -/
def chanDelay (us : Nat) (s : State) : State := record (.delay us) s

/-- Bytes arrive on the wire: they join the receive buffer, oldest first (20_memory.md R45 (a), (c)). -/
def receiveBytes (bytes : List U8) (s : State) : State :=
  { s with env := { s.env with rx := s.env.rx ++ bytes } }

/-- The wire bytes of a datagram, as its encoding lays them out (30_encoding.md R54). -/
def datagramBytes (i : Instr) : List U8 :=
  match encode i with
  | .wire _ bytes => bytes
  | .command _ _ => []

end Sys2Proof.Machine
end

