-- ==== Sys2Proof/Machine/Sequencer.lean ====
section
/-! DEFINITION. The phase machine of the transport driver (spec/42_transport_driver.md R91, R94, R96 to R105): one
primitive call a tick, and an operation run tick by tick to its end. -/

namespace Sys2Proof.Machine

/-- All TXN bytes are handed over (R100): `write` and `request` complete, `read` goes on to listen. -/
def finishSending (s : State) : State :=
  if s.regs.op = .read then enterDraining s else complete .none .ok s

/-- After a `ChanWrite` call of SENDING returned: byte TXI has been handed over; the phase ends when TXI reaches TXN
(R102). -/
def sendByte (s : State) : State :=
  let s := chanWrite (byteAt s.regs.dgram s.regs.txi) s
  let s := { s with regs := { s.regs with txi := s.regs.txi + 1 } }
  if s.regs.txi < s.regs.txn then s else finishSending s

/-- SENDING (R91, R102): `ChanFlush()` once, then `ChanWrite` of byte TXI while TXI < TXN. -/
def tickSending (s : State) : StepResult :=
  match s.regs.point with
  | .first => call s fun s => .next (setPoint .act (chanFlush s))
  | _ => call s fun s => .next (sendByte s)

/-- After a `ChanAvail` of the drain returned: over when it returned 0 (R99). -/
def drainTest (s : State) : State :=
  if availCount s = 0 then enterWaiting (chanAvail s) else setPoint .act (chanAvail s)

/-- DRAINING (R99, R103): `ChanFlush()` once, then test and discard until a test returns 0. -/
def tickDraining (s : State) : StepResult :=
  match s.regs.point with
  | .first => call s fun s => .next (setPoint .test (chanFlush s))
  | .test => call s fun s => .next (drainTest s)
  | .act => chanRead s fun _ s => .next (setPoint .test s)

/-- After the turnaround delay: CNT becomes REPLY_BUDGET (R96, R104). -/
def startPoll (s : State) : State :=
  let s := chanDelay s.params.echoDelayUs s
  { s with regs := { s.regs with cnt := s.params.replyBudget, point := .test } }

/-- After a `ChanAvail` of the poll returned: collect at 8 or more, else expire at CNT 0, else delay (R94, R97). -/
def pollTest (s : State) : State :=
  if 8 ≤ availCount s then enterComplete (chanAvail s)
  else if s.regs.cnt = 0 then enterTimedOut (chanAvail s)
  else setPoint .act (chanAvail s)

/-- After a poll delay: CNT is decremented (R97, 60_exceptions.md R119). -/
def pollAgain (s : State) : State :=
  let s := chanDelay s.params.pollDelayUs s
  { s with regs := { s.regs with cnt := s.regs.cnt - 1, point := .test } }

/-- WAITING (R96, R97, R104): `Delay(ECHO_DELAY_US)` once, then test, expire, delay and decrement. -/
def tickWaiting (s : State) : StepResult :=
  match s.regs.point with
  | .first => call s fun s => .next (startPoll s)
  | .test => call s fun s => .next (pollTest s)
  | .act => call s fun s => .next (pollAgain s)

/-- The listen has ended with RAW and status `st` (R94, R95): `awaitReply` presents RAW; `read` decodes it. -/
def finishListening (st : Status) (s : State) : State :=
  if s.regs.op = .read then
    complete (.u32 (decodeResponse s.params s.regs.raw).1) (decodeResponse s.params s.regs.raw).2 s
  else complete (.u64 s.regs.raw) st s

/-- After a `ChanRead` of COMPLETE returned `b`: it is byte RXI of RAW; the phase ends at the eighth (R98). -/
def takeByte (b : U8) (s : State) : State :=
  let s := { s with regs := { s.regs with raw := setByte s.regs.raw s.regs.rxi b, rxi := s.regs.rxi + 1 } }
  if s.regs.rxi < 8 then s else finishListening .ok s

/-- COMPLETE (R98, R105): one `ChanRead` a tick, eight in all. -/
def tickComplete (s : State) : StepResult := chanRead s fun b s => .next (takeByte b s)

/-- TIMED_OUT (R94, R105): RAW becomes SENTINEL64 and the operation ends. -/
def expire (s : State) : State :=
  finishListening .replyTimeout { s with regs := { s.regs with raw := sentinel64 } }

/-- TIMED_OUT calls no primitive (R100). -/
def tickTimedOut (s : State) : StepResult := .next (expire s)

/-- One tick of the phase machine (R100). In IDLE nothing happens and no primitive is called (R101). -/
def tick (s : State) : StepResult :=
  match s.phase with
  | .idle => .next s
  | .sending => tickSending s
  | .draining => tickDraining s
  | .waiting => tickWaiting s
  | .complete => tickComplete s
  | .timedOut => tickTimedOut s

/-- At most `n` ticks, stopping when the block is back in IDLE. -/
def runOperation : Nat → State → StepResult
  | 0, s => .next s
  | n + 1, s =>
    if s.busy then
      match tick s with
      | .next s' => runOperation n s'
      | .fault f => .fault f
      | .refused r => .refused r
    else .next s

/-- How many bytes the script will deliver. -/
def scriptArrivals : List Slot → Nat
  | [] => 0
  | x :: xs => x.arrivals.length + scriptArrivals xs

/-- Ticks enough for every operation that ends on this channel (log 11): the scripted calls, two calls for each byte to
drain, two for each poll, and the fixed calls. An operation that is still in progress after them stays BUSY, and `step`
goes on with it tick by tick. -/
def callBound (s : State) : Nat :=
  s.env.script.length + 2 * (s.env.rx.length + scriptArrivals s.env.script) + 2 * s.params.replyBudget + 32

/-- Run the operation in progress. -/
def runToIdle (s : State) : StepResult := runOperation (callBound s) s

end Sys2Proof.Machine
end

