-- ==== Sys2Proof/Machine/Crcu.lean ====
section
/-! DEFINITION. The operations of the CRC engine (spec/40_crc_engine.md R70 to R72). -/

namespace Sys2Proof.Machine

/-- `byteCRC(byte, seed)`, R70. -/
def execByteCRC (byte seed : U8) (s : State) : StepResult :=
  completePure .byteCRC (.u8 (byteCRC s.params byte seed)) .ok s

/-- `wordCRC(value, seed)`, R71. -/
def execWordCRC (value : U32) (seed : U8) (s : State) : StepResult :=
  completePure .wordCRC (.u8 (wordCRC s.params value seed)) .ok s

/-- `startSeed(address)`, R72. -/
def execStartSeed (address : U8) (s : State) : StepResult :=
  completePure .startSeed (.u8 (startSeed s.params address)) .ok s

end Sys2Proof.Machine
end

