-- ==== Sys2Proof/Machine/Dcu.lean ====
section
/-! DEFINITION. The operations of the datagram codec (spec/41_datagram_codec.md R80, R82, R83, R84). -/

namespace Sys2Proof.Machine

/-- `reverseBytes(x)`, R80. -/
def execReverseBytes (x : U32) (s : State) : StepResult :=
  completePure .reverseBytes (.u32 (reverseBytes x)) .ok s

/-- `encodeWrite(address, reg, value)`, R82. -/
def execEncodeWrite (address reg : U8) (value : U32) (s : State) : StepResult :=
  completePure .encodeWrite (.u64 (encodeWrite s.params address reg value)) .ok s

/-- `encodeRequest(address, reg)`, R83. -/
def execEncodeRequest (address reg : U8) (s : State) : StepResult :=
  completePure .encodeRequest (.u32 (encodeRequest s.params address reg)) .ok s

/-- `decodeResponse(raw)`, R84. -/
def execDecodeResponse (raw : U64) (s : State) : StepResult :=
  completePure .decodeResponse (.u32 (decodeResponse s.params raw).1) (decodeResponse s.params raw).2 s

end Sys2Proof.Machine
end

