-- ==== Sys2Proof/Machine/Tdu.lean ====
section
/-! DEFINITION. The operations of the transport driver (spec/42_transport_driver.md R92 to R95, R109). Channel presence is
tested first, before anything is built or sent (R90, spec/60_exceptions.md R115); the datagram is built from the captured
operands (spec/20_memory.md R44). -/

namespace Sys2Proof.Machine

/-- `write(channel, address, reg, value)`, R92. -/
def execWrite (channel : Bool) (address reg : U8) (value : U32) (s : State) : StepResult :=
  accept .write s fun s =>
    let s := captureWrite channel address reg value s
    if s.regs.chanPresent then
      runToIdle (enterSending (encodeWrite s.params s.regs.addr s.regs.reg s.regs.value) 8 s)
    else .next (complete .none .channelAbsent s)

/-- `request(channel, address, reg)`, R93. -/
def execRequest (channel : Bool) (address reg : U8) (s : State) : StepResult :=
  accept .request s fun s =>
    let s := captureRequest channel address reg s
    if s.regs.chanPresent then
      runToIdle (enterSending ((encodeRequest s.params s.regs.addr s.regs.reg).setWidth 64) 4 s)
    else .next (complete .none .channelAbsent s)

/-- `awaitReply(channel)`, R94; without a channel, R109. -/
def execAwaitReply (channel : Bool) (s : State) : StepResult :=
  accept .awaitReply s fun s =>
    let s := captureAwait channel s
    if s.regs.chanPresent then runToIdle (enterDraining s)
    else .next (complete (.u64 sentinel64) .channelAbsent s)

/-- `read(channel, address, reg)`, R95; without a channel, R109. -/
def execRead (channel : Bool) (address reg : U8) (s : State) : StepResult :=
  accept .read s fun s =>
    let s := captureRead channel address reg s
    if s.regs.chanPresent then
      runToIdle (enterSending ((encodeRequest s.params s.regs.addr s.regs.reg).setWidth 64) 4 s)
    else .next (complete (.u32 sentinel32) .channelAbsent s)

end Sys2Proof.Machine
end

