-- ==== Sys2Proof/Machine/Wire.lean ====
section
/-! DEFINITION. The three datagram rows of the table as events of the wire (log 6): the datagram's bytes reach the receive
side in wire order (spec/10_state.md R20 (b), spec/20_memory.md R33, R36, R45 (c), spec/30_encoding.md R54). The block
calls no primitive and does not look at the bytes (spec/42_transport_driver.md R101). -/

namespace Sys2Proof.Machine

/-- WRITE_DATAGRAM: the block's own write datagram coming back as echo (R36, 70_reset_and_hazards.md R139). -/
def execWriteDatagram (sync address field : U8) (payload : U32) (crc : U8) (s : State) : StepResult :=
  .next (receiveBytes (datagramBytes (.writeDatagram sync address field payload crc)) s)

/-- REQUEST_DATAGRAM: the block's own request coming back as echo (R36, 70_reset_and_hazards.md R135). -/
def execRequestDatagram (sync address field crc : U8) (s : State) : StepResult :=
  .next (receiveBytes (datagramBytes (.requestDatagram sync address field crc)) s)

/-- RESPONSE_DATAGRAM: a reply arrives (30_encoding.md R53, R54). -/
def execResponseDatagram (sync address field : U8) (payload : U32) (crc : U8) (s : State) : StepResult :=
  .next (receiveBytes (datagramBytes (.responseDatagram sync address field payload crc)) s)

end Sys2Proof.Machine
end

