-- ==== Sys2Proof/Machine/Dispatch.lean ====
section
/-! DEFINITION. The meaning of each instruction, one arm per constructor of `Instr`. -/

namespace Sys2Proof.Machine

def exec (i : Instr) (s : State) : Host.Outcome State Fault Refusal :=
  match i with
  -- CRC engine
  | .byteCRC byte seed => Sys2Proof.Machine.execByteCRC byte seed s
  | .wordCRC value seed => Sys2Proof.Machine.execWordCRC value seed s
  | .startSeed address => Sys2Proof.Machine.execStartSeed address s
  -- datagram codec
  | .reverseBytes x => Sys2Proof.Machine.execReverseBytes x s
  | .encodeWrite address reg value => Sys2Proof.Machine.execEncodeWrite address reg value s
  | .encodeRequest address reg => Sys2Proof.Machine.execEncodeRequest address reg s
  | .decodeResponse raw => Sys2Proof.Machine.execDecodeResponse raw s
  -- transport driver
  | .write channel address reg value => Sys2Proof.Machine.execWrite channel address reg value s
  | .request channel address reg => Sys2Proof.Machine.execRequest channel address reg s
  | .awaitReply channel => Sys2Proof.Machine.execAwaitReply channel s
  | .read channel address reg => Sys2Proof.Machine.execRead channel address reg s
  -- datagrams on the wire
  | .writeDatagram sync address field payload crc => Sys2Proof.Machine.execWriteDatagram sync address field payload crc s
  | .requestDatagram sync address field crc => Sys2Proof.Machine.execRequestDatagram sync address field crc s
  | .responseDatagram sync address field payload crc => Sys2Proof.Machine.execResponseDatagram sync address field payload crc s

end Sys2Proof.Machine
end

