-- ==== Sys2Proof/Machine/Fetch.lean ====
section
/-! DEFINITION. Taking the next item presented to an idle block, and what an item that is no instruction does. -/

namespace Sys2Proof.Machine

/-- The next item presented, and the machine without it (spec/30_encoding.md R65: one after another). -/
def fetch (s : State) : Option (Frame × State) :=
  match s.inbox with
  | [] => none
  | f :: rest => some (f, { s with inbox := rest })

/-- An item that decodes to nothing. An unassigned operation code is refused (30_encoding.md R63). Bytes on the wire that
are no datagram are noise and reach the receive buffer all the same (20_memory.md R45 (c); log 20). -/
def undecoded (f : Frame) (why : Reject) (s : State) : StepResult :=
  match f with
  | .command _ _ => .refused (.undecodable why)
  | .wire _ bytes => .next (receiveBytes bytes s)

/-- What an idle block does with one item: the decoded instruction's meaning, at the state without the item. -/
def runFrame (f : Frame) (s : State) : StepResult :=
  match decode s.params f with
  | .ok i => exec i s
  | .error why => undecoded f why s

/-- Put an item where the next step takes it. -/
def pushFrame (f : Frame) (s : State) : State := { s with phase := .idle, inbox := f :: s.inbox }

end Sys2Proof.Machine
end

