-- ==== Sys2Proof/Machine/Step.lean ====
section
/-! DEFINITION. One step of the machine. A block that is BUSY (an operation whose channel call had not returned) goes on
with its operation by one tick; an idle block takes the next item presented to it and runs it; with nothing presented it
"stays in IDLE for any length of time" (spec/42_transport_driver.md R101). -/

namespace Sys2Proof.Machine

def step (s : State) : Host.Outcome State Fault Refusal :=
  if s.busy then tick s
  else
    match fetch s with
    | none => .next s
    | some (f, s') => runFrame f s'

/-- The instruction that stands in a word of the opcode table, placed where the next step takes it (log 5, log 23). -/
def State.withFetchWord (s : State) (nbits w : Nat) : State :=
  pushFrame (wordFrame s.params.sync nbits w) s

end Sys2Proof.Machine
end

