-- ==== Sys2Proof/Safety.lean ====
section
/-! DEFINITION. The terms claims use: what is assumed of the channel (spec/20_memory.md R45), the call sequences of
spec/42_transport_driver.md R106, the invariant of the phase machine, and what is seen outside the block. -/

namespace Sys2Proof.Machine

/-- The state an outcome goes on with, if it goes on. -/
def nextOf : StepResult → Option State
  | .next s => some s
  | .fault _ => none
  | .refused _ => none

/-- The call of this slot returns (R45 (d)). -/
def Slot.answers (x : Slot) : Bool := x.ending == .returns

/-- Every call on this channel returns: the premise of R45 (d) and R108. -/
def Env.prompt (e : Env) : Bool := e.script.all Slot.answers && e.rest.answers

/-- Nothing ever arrives on this channel. -/
def Env.silent (e : Env) : Bool := e.script.all (fun x => x.arrivals.isEmpty) && e.rest.arrivals.isEmpty

/-- At least one byte arrives during every call: a line that "delivers bytes continuously" (R138). -/
def Env.neverSilent (e : Env) : Bool :=
  e.script.all (fun x => !x.arrivals.isEmpty) && !e.rest.arrivals.isEmpty

/-- What the channel does during each of the next `n` primitive calls. -/
def slotsOf : Nat → Env → List Slot
  | 0, _ => []
  | n + 1, e => e.slot :: slotsOf n { e with script := e.script.tail }

/-- The bytes that arrive during the next `n` primitive calls, in order. -/
def arrivalsOf (n : Nat) (e : Env) : List U8 := (slotsOf n e).flatMap Slot.arrivals

/-- "The drain ends (some `ChanAvail` in it returns 0)", the premise of 42_transport_driver.md R108 and
70_reset_and_hazards.md R138, for a listen that begins after `sent` more calls of a channel whose calls return. The test
numbered `k` from 0 is call `sent + 2 * k + 2`, after the flush and `k` tests with a read each; it returns 0 when the `k`
bytes discarded so far are all that was buffered and has arrived. What the line delivers after the drain is left open. -/
def DrainEnds (sent : Nat) (e : Env) : Prop :=
  ∃ k, e.rx.length + (arrivalsOf (sent + 2 * k + 2) e).length = k

/-- The bytes handed over by the `ChanWrite` calls among these: the transmit stream (20_memory.md R30). -/
def writesOf : List Call → List U8
  | [] => []
  | .write b :: l => b :: writesOf l
  | _ :: l => writesOf l

/-- The bytes taken by the `ChanRead` calls among these: the receive stream (R30). -/
def readsOf : List Call → List U8
  | [] => []
  | .read b :: l => b :: readsOf l
  | _ :: l => readsOf l

/-- How many of these calls are `ChanAvail`. -/
def availsOf : List Call → Nat
  | [] => 0
  | .avail _ :: l => availsOf l + 1
  | _ :: l => availsOf l

/-- `F W(w0) … W(w(n-1))`: the calls that send `n` bytes of a datagram word (42_transport_driver.md R91, R106). -/
def sendCalls (n : Nat) (w : U64) : List Call := .flush :: (wireBytes n w).map Call.write

/-- `(A(n>0) R)*`: the drain's tests and discarded bytes (R99, R106). -/
def drainCalls (stale : List (Nat × U8)) : List Call := stale.flatMap fun x => [Call.avail x.1, Call.read x.2]

/-- `(A(n<8) D(p))^j`: the polls that saw too few bytes (R97, R106). -/
def pollCalls (us : Nat) (polls : List Nat) : List Call := polls.flatMap fun n => [Call.avail n, Call.delay us]

/-- The tests and bytes of draining a buffer to which nothing is added. -/
def staleOf : List U8 → List (Nat × U8)
  | [] => []
  | b :: bs => (bs.length + 1, b) :: staleOf bs

/-- `F (A(n>0) R)* A(0) D(E) (A(n<8) D(p))^j A(n>=8) R^8` with `0 <= j <= B`: a listen that takes 8 bytes (R106). -/
def ListenReply (p : Params) (l : List Call) (raw : U64) : Prop :=
  ∃ (stale : List (Nat × U8)) (polls : List Nat) (last : Nat) (reply : List U8),
    l = [Call.flush] ++ drainCalls stale ++ [Call.avail 0, Call.delay p.echoDelayUs] ++
          pollCalls p.pollDelayUs polls ++ [Call.avail last] ++ reply.map Call.read ∧
    (∀ x ∈ stale, 0 < x.1) ∧ (∀ n ∈ polls, n < 8) ∧ polls.length ≤ p.replyBudget ∧ 8 ≤ last ∧
    reply.length = 8 ∧ raw = assemble reply

/-- `F (A(n>0) R)* A(0) D(E) (A(n<8) D(p))^B A(n<8)`: a listen that times out (R106). -/
def ListenTimeout (p : Params) (l : List Call) : Prop :=
  ∃ (stale : List (Nat × U8)) (polls : List Nat) (last : Nat),
    l = [Call.flush] ++ drainCalls stale ++ [Call.avail 0, Call.delay p.echoDelayUs] ++
          pollCalls p.pollDelayUs polls ++ [Call.avail last] ∧
    (∀ x ∈ stale, 0 < x.1) ∧ (∀ n ∈ polls, n < 8) ∧ polls.length = p.replyBudget ∧ last < 8

/-- SENDING: a channel is there; OP, TXN and DGRAM fit the captured operands; TXI is below TXN (R102, 20_memory.md
R44). -/
def sendingInv (s : State) : Bool :=
  s.regs.chanPresent && s.regs.point != .test && decide (s.regs.txi < s.regs.txn) &&
  (s.regs.point != .first || s.regs.txi == 0) &&
  match s.regs.op with
  | .write => s.regs.txn == 8 && s.regs.dgram == encodeWrite s.params s.regs.addr s.regs.reg s.regs.value
  | .request => s.regs.txn == 4 && s.regs.dgram == (encodeRequest s.params s.regs.addr s.regs.reg).setWidth 64
  | .read => s.regs.txn == 4 && s.regs.dgram == (encodeRequest s.params s.regs.addr s.regs.reg).setWidth 64
  | _ => false

/-- The operation in progress is one that listens, and there is a channel (R94, R95). -/
def listening (s : State) : Bool := s.regs.chanPresent && (s.regs.op == .awaitReply || s.regs.op == .read)

/-- What holds of the registers in each phase (10_state.md R12, R16; 60_exceptions.md R119). The clauses on the receive
buffer are what keeps `ChanRead` off an empty buffer (20_memory.md R36). -/
def State.inv (s : State) : Bool :=
  match s.phase with
  | .idle => true
  | .sending => sendingInv s
  | .draining => listening s && (s.regs.point != .act || !s.env.rx.isEmpty)
  | .waiting => listening s && (s.regs.point == .first || decide (s.regs.cnt ≤ s.params.replyBudget)) &&
      (s.regs.point != .act || decide (0 < s.regs.cnt))
  | .complete => listening s && decide (s.regs.rxi < 8) && decide (8 ≤ s.env.rx.length + s.regs.rxi)
  | .timedOut => listening s

/-- The transmit stream of the channel is exactly the bytes of the recorded `ChanWrite` calls, in their order
(20_memory.md R30, R35, R45 (a)). Holds after reset, and is kept by every step. -/
def State.streamRecorded (s : State) : Bool := s.env.txSent ++ s.env.txPending == writesOf s.calls

/-- "Transmit is flushed to completion before any receive attempt begins" (20_memory.md R40, R41): from the return of the
listen's flush to its end nothing is pending for transmission. -/
def State.flushedToListen (s : State) : Bool :=
  match s.phase with
  | .idle | .sending => true
  | .draining => s.regs.point == .first || s.env.txPending.isEmpty
  | .waiting | .complete | .timedOut => s.env.txPending.isEmpty

/-- What stands outside the block, the phase included: everything but the operand and working registers. -/
structure Outside where
  params : Params
  phase : Phase
  env : Env
  inbox : List Frame
  calls : List Call
  completions : List Completion
  deriving DecidableEq, Repr

/-- The outside of a state. -/
def State.outside (s : State) : Outside :=
  { params := s.params, phase := s.phase, env := s.env, inbox := s.inbox, calls := s.calls,
    completions := s.completions }

/-- The row is one of the eleven operations of 30_encoding.md R58, not a datagram on the wire. -/
def isOperation : Instr → Bool
  | .writeDatagram _ _ _ _ _ => false
  | .requestDatagram _ _ _ _ => false
  | .responseDatagram _ _ _ _ _ => false
  | _ => true

/-- The operation of a row, if it is one. -/
def opOf : Instr → Option Op
  | .byteCRC _ _ => some .byteCRC
  | .wordCRC _ _ => some .wordCRC
  | .startSeed _ => some .startSeed
  | .reverseBytes _ => some .reverseBytes
  | .encodeWrite _ _ _ => some .encodeWrite
  | .encodeRequest _ _ => some .encodeRequest
  | .decodeResponse _ => some .decodeResponse
  | .write _ _ _ _ => some .write
  | .request _ _ _ => some .request
  | .awaitReply _ => some .awaitReply
  | .read _ _ _ => some .read
  | .writeDatagram _ _ _ _ _ => none
  | .requestDatagram _ _ _ _ => none
  | .responseDatagram _ _ _ _ _ => none

/-- The operand inputs an operation reads, the others zero (the operands column of 30_encoding.md R58). -/
def inputsOf (op : Op) (o : Operands) : Operands :=
  match op with
  | .byteCRC => { Operands.zero with byte := o.byte, seed := o.seed }
  | .wordCRC => { Operands.zero with value := o.value, seed := o.seed }
  | .startSeed => { Operands.zero with address := o.address }
  | .reverseBytes => { Operands.zero with x := o.x }
  | .encodeWrite => { Operands.zero with address := o.address, reg := o.reg, value := o.value }
  | .encodeRequest => { Operands.zero with address := o.address, reg := o.reg }
  | .decodeResponse => { Operands.zero with raw := o.raw }
  | .write => { Operands.zero with channel := o.channel, address := o.address, reg := o.reg, value := o.value }
  | .request => { Operands.zero with channel := o.channel, address := o.address, reg := o.reg }
  | .awaitReply => { Operands.zero with channel := o.channel }
  | .read => { Operands.zero with channel := o.channel, address := o.address, reg := o.reg }

/-- One round of the CRC register by its taps at bits 0, 1 and 2 (40_crc_engine.md R74). -/
def crcTapRound (s : U8) (d : Bool) : U8 :=
  let t := s.getLsbD 7 ^^ d
  BitVec.ofBool (s.getLsbD 6) ++ BitVec.ofBool (s.getLsbD 5) ++ BitVec.ofBool (s.getLsbD 4) ++
    BitVec.ofBool (s.getLsbD 3) ++ BitVec.ofBool (s.getLsbD 2) ++ BitVec.ofBool (s.getLsbD 1 ^^ t) ++
    BitVec.ofBool (s.getLsbD 0 ^^ t) ++ BitVec.ofBool t

/-- Eight tap rounds with `d = b[0], b[1], …, b[7]` (R74). -/
def crcTapByte (b s : U8) : U8 := (List.range 8).foldl (fun acc k => crcTapRound acc (b.getLsbD k)) s

/-- The byte with its bits reversed: bit 0 becomes bit 7 (R76 (d)). -/
def bitrev8 (b : U8) : U8 := b.reverse

/-- The most-significant-bit-first CRC-8 with polynomial 0x07 over one byte (R77). -/
def crc8MsbFirst (b s : U8) : U8 :=
  (List.range 8).foldl (fun acc _ => if acc.getLsbD 7 then (acc <<< 1) ^^^ 0x07#8 else acc <<< 1) (s ^^^ b)

/-- An odd number of bits of the word are 1. -/
def oddBits (e : U64) : Bool := (List.range 64).foldl (fun acc i => acc ^^ e.getLsbD i) false

/-- A flip pattern over `P[63:16]` keeps the CRC check (R78). -/
def flipPasses (p : Params) (e : U64) : Bool :=
  wordCRC p (responsePayload e) (byteCRC p (responseField e) 0) == receivedCrc e

/-- PHASE moves of 42_transport_driver.md R100 out of a phase in which an operation is in progress, with the condition of
each and the completion it presents, if any; `s` before and `t` after. -/
def PhaseMove (s t : State) : Prop :=
  match s.phase, t.phase with
  | .sending, .idle => (s.regs.op = .write ∨ s.regs.op = .request) ∧ s.regs.point = .act ∧
      s.regs.txi + 1 = s.regs.txn ∧ t.calls = s.calls ++ [.write (byteAt s.regs.dgram s.regs.txi)] ∧
      t.completions = s.completions ++ [⟨s.regs.op, .none, .ok⟩]
  | .sending, .draining => s.regs.op = .read ∧ s.regs.point = .act ∧ s.regs.txi + 1 = s.regs.txn ∧
      t.calls = s.calls ++ [.write (byteAt s.regs.dgram s.regs.txi)] ∧ t.completions = s.completions
  | .draining, .waiting => s.regs.point = .test ∧ t.calls = s.calls ++ [.avail 0] ∧ t.completions = s.completions
  | .waiting, .complete => s.regs.point = .test ∧ t.completions = s.completions ∧
      ∃ n, 8 ≤ n ∧ t.calls = s.calls ++ [.avail n]
  | .waiting, .timedOut => s.regs.point = .test ∧ s.regs.cnt = 0 ∧ t.completions = s.completions ∧
      ∃ n, n < 8 ∧ t.calls = s.calls ++ [.avail n]
  | .complete, .idle => s.regs.rxi + 1 = 8 ∧
      ∃ b c, t.calls = s.calls ++ [.read b] ∧ t.completions = s.completions ++ [c] ∧ c.op = s.regs.op
  | .timedOut, .idle => t.calls = s.calls ∧ t.regs.raw = sentinel64 ∧
      ∃ v, t.completions = s.completions ++ [⟨s.regs.op, v, .replyTimeout⟩]
  | _, _ => False

/-- What one primitive call that returned did to the channel (20_memory.md R35, R36): `a` is what arrived meanwhile,
`s` before and `t` after. -/
def CallEffect (c : Call) (a : List U8) (s t : State) : Prop :=
  match c with
  | .flush => t.env.rx = s.env.rx ++ a ∧ t.env.txPending = [] ∧ t.env.txSent = s.env.txSent ++ s.env.txPending
  | .write b => t.env.rx = s.env.rx ++ a ∧
      t.env.txSent ++ t.env.txPending = s.env.txSent ++ s.env.txPending ++ [b]
  | .avail n => t.env.rx = s.env.rx ++ a ∧ n = t.env.rx.length ∧
      t.env.txSent ++ t.env.txPending = s.env.txSent ++ s.env.txPending
  | .read b => b :: t.env.rx = s.env.rx ++ a ∧
      t.env.txSent ++ t.env.txPending = s.env.txSent ++ s.env.txPending
  | .delay _ => t.env.rx = s.env.rx ++ a ∧
      t.env.txSent ++ t.env.txPending = s.env.txSent ++ s.env.txPending

end Sys2Proof.Machine
end

