-- ==== Sys2Proof/Certificates/Slice0/Obligations.lean ====
section
/-! DEFINITION. The statements for the provers. Each docstring names the rules of spec/ it formalises; where a clause rests
on a decision of the spec (D1 to D22) or on a choice of this model, the docstring names it. Statements hold for every
choice of the parameters (spec/00_scope.md R4) unless a premise says otherwise. -/

open Sys2Proof Sys2Proof.Machine

/-! ### Encoding -/

/-- Decoding the encoding of a well-formed instruction gives it back, for every row of the table and every operand
(30_encoding.md R51, R52, R53, R54, R58). The form of the command interface is the model's (log 5), the direction tag of
the wire too (log 7). -/
def Obligations.EncodeThenDecode : Prop :=
  ∀ (p : Params) (i : Instr), i.wf p = true → decode p (encode i) = .ok i

/-- What decodes is well formed. Bytes on the wire that decode to a datagram are exactly that datagram's encoding. A
command that decodes is the operation its code selects, and that operation's encoding is the same code with the same value
on every operand input the operation reads, zero on the inputs it ignores (30_encoding.md R51 to R54, R58, R64; the form of
the command interface is log 5, the direction tag log 7). -/
def Obligations.DecodedIsEncoded : Prop :=
  (∀ (p : Params) (f : Frame) (i : Instr), decode p f = .ok i → i.wf p = true) ∧
  (∀ (p : Params) (dir : Direction) (bytes : List U8) (i : Instr),
    decode p (.wire dir bytes) = .ok i → encode i = .wire dir bytes) ∧
  (∀ (p : Params) (code : BitVec 4) (o : Operands) (i : Instr),
    decode p (.command code o) = .ok i →
    ∃ op : Op, opOf i = some op ∧ op.code = code ∧ encode i = .command code (inputsOf op o))

/-- Words written out from the spec's encodings decode to the instructions they stand for: an operation code of each
unit (30_encoding.md R58), and datagrams of 95_test_vectors.md V4, V5, V6. Tier 1. The words are read as the model reads a
row of the table, a row of 8 bits as a code with zero operands, a longer one as a datagram by SYNC and bit 23 (DESIGN
CHOICE, log 23), under the default parameters (PRESUMED values, log 2). -/
def Obligations.SpecWordsDecode : Prop :=
  decodeTableWord 8 0b0000 = some (.byteCRC 0 0) ∧
  decodeTableWord 8 0b0110 = some (.decodeResponse 0) ∧
  decodeTableWord 8 0b1010 = some (.awaitReply false) ∧
  decodeTableWord 64 0x9E0A1F0600900005 = some (.writeDatagram 0x05 0x00 0x90 0x0A1F0600 0x9E) ∧
  decodeTableWord 32 0x6F060005 = some (.requestDatagram 0x05 0x00 0x06 0x6F) ∧
  decodeTableWord 64 0x4F4000002106FF05 = some (.responseDatagram 0x05 0xFF 0x06 0x40000021 0x4F)

/-- Codes 0x7 and 0xC to 0xF select nothing and every other code selects the operation that has it; a command with an
unassigned code is refused by the idle block (30_encoding.md R58, R63, D14). -/
def Obligations.UnassignedCodesRefused : Prop :=
  (∀ op : Op, Op.ofCode op.code = some op) ∧
  (∀ code : BitVec 4, Op.ofCode code = none ↔ code ∈ [0x7#4, 0xC#4, 0xD#4, 0xE#4, 0xF#4]) ∧
  (∀ (s : State) (code : BitVec 4) (o : Operands) (rest : List Frame),
    s.phase = .idle → s.inbox = .command code o :: rest → Op.ofCode code = none →
    step s = .refused (.undecodable (.unassignedCode code)))

/-- A write datagram's bytes, as `encodeWrite` builds them, decode as the row WRITE_DATAGRAM with the address, the
register field with bit 7 set, the reversed payload and the CRC; a request's bytes as REQUEST_DATAGRAM with bit 7 clear
(30_encoding.md R51, R52, R54, R55 with D7). -/
def Obligations.BuiltDatagramsDecode : Prop :=
  ∀ (p : Params) (a r : U8) (v : U32), p.flagPolicy = .force →
    decode p (.wire .echo (wireBytes 8 (encodeWrite p a r v))) =
      .ok (.writeDatagram p.sync a (r ||| 0x80#8) (reverseBytes v)
        (wordCRC p (reverseBytes v) (byteCRC p (r ||| 0x80#8) (startSeed p a)))) ∧
    decode p (.wire .echo (wireBytes 4 ((encodeRequest p a r).setWidth 64))) =
      .ok (.requestDatagram p.sync a (r &&& 0x7F#8) (byteCRC p (r &&& 0x7F#8) (startSeed p a)))

/-! ### The step -/

/-- A step runs the decoded instruction. An idle block takes the oldest item presented (the list of items is a DESIGN
CHOICE, log 5): if it decodes to `i` the step is `exec i` at the state without the item; bytes that are no datagram only
reach the receive buffer (DEDUCED, log 20). A BUSY block accepts nothing (10_state.md R21); that its step is one tick is a
DESIGN CHOICE (log 11). The item placed by `withFetchWord`, which sets PHASE to IDLE, is the next one taken (DESIGN CHOICE,
log 23). R65 of 30_encoding.md is where operations follow one another. -/
def Obligations.StepRunsDecoded : Prop :=
  (∀ (s : State) (f : Frame) (rest : List Frame) (i : Instr),
    s.phase = .idle → s.inbox = f :: rest → decode s.params f = .ok i → step s = exec i { s with inbox := rest }) ∧
  (∀ (s : State) (dir : Direction) (bytes : List U8) (rest : List Frame) (why : Reject),
    s.phase = .idle → s.inbox = .wire dir bytes :: rest → decode s.params (.wire dir bytes) = .error why →
    step s = .next { s with inbox := rest, env := { s.env with rx := s.env.rx ++ bytes } }) ∧
  (∀ s : State, s.phase ≠ .idle → step s = tick s) ∧
  (∀ (s : State) (nbits w : Nat) (i : Instr), decode s.params (wordFrame s.params.sync nbits w) = .ok i →
    step (s.withFetchWord nbits w) = exec i { s with phase := .idle })

/-- IDLE is the only phase in which an operation is accepted: each of the eleven answers a next state from every idle
state, and none is accepted in another phase. No primitive is called in IDLE: with nothing presented the block stays as it
is, and bytes that arrive meanwhile are left in the receive buffer, unlooked at, every register, PHASE, the calls and the
completions as before (42_transport_driver.md R101). The model's own: that an operation whose call has not returned answers
a next state too (DESIGN CHOICE, log 11), that one presented while BUSY is refused by name (D13, log 15), and that bytes,
noise included, are items of the inbox (logs 5, 6 and 20). -/
def Obligations.AcceptedOnlyInIdle : Prop :=
  (∀ (i : Instr) (op : Op) (s : State), opOf i = some op → s.phase = .idle → ∃ t, exec i s = .next t) ∧
  (∀ (i : Instr) (op : Op) (s : State), opOf i = some op → s.phase ≠ .idle → exec i s = .refused (.busy op)) ∧
  (∀ s : State, s.phase = .idle → s.inbox = [] → step s = .next s) ∧
  (∀ (s : State) (dir : Direction) (bytes : List U8) (rest : List Frame),
    s.phase = .idle → s.inbox = .wire dir bytes :: rest →
    ∃ t, step s = .next t ∧ t.phase = .idle ∧ t.regs = s.regs ∧ t.calls = s.calls ∧
      t.completions = s.completions ∧ t.params = s.params ∧ t.inbox = rest ∧
      t.env = { s.env with rx := s.env.rx ++ bytes })

/-- PHASE, status and operation codes (10_state.md R15 with D15, R17 with D9; 30_encoding.md R58 with D14): distinct, and
bit 3 of an operation code is 1 exactly for the operations that use the channel. -/
def Obligations.CodesAsNumbered : Prop :=
  ([Phase.idle, .sending, .draining, .waiting, .complete, .timedOut].map Phase.code = [0, 1, 2, 3, 4, 5]) ∧
  ([Status.ok, .channelAbsent, .replyTimeout, .crcMismatch].map Status.code = [0, 1, 2, 3]) ∧
  (Op.all.map Op.code = [0x0, 0x1, 0x2, 0x3, 0x4, 0x5, 0x6, 0x8, 0x9, 0xA, 0xB]) ∧
  (∀ op : Op, op.code.getLsbD 3 = true ↔ op = .write ∨ op = .request ∨ op = .awaitReply ∨ op = .read)

/-! ### The pure operations -/

/-- Each of the seven pure operations completes from every idle state, for every operand, in one step: the completion is
presented and nothing else changes, no register, no channel byte, no call (10_state.md R21, R24; 41_datagram_codec.md
R87; that OP is not written either is DEDUCED, log 13). -/
def Obligations.PureOperationsComplete : Prop :=
  ∀ s : State, s.phase = .idle →
    (∀ b sd, exec (.byteCRC b sd) s = .next { s with
      completions := s.completions ++ [⟨.byteCRC, .u8 (byteCRC s.params b sd), .ok⟩] }) ∧
    (∀ v sd, exec (.wordCRC v sd) s = .next { s with
      completions := s.completions ++ [⟨.wordCRC, .u8 (wordCRC s.params v sd), .ok⟩] }) ∧
    (∀ a, exec (.startSeed a) s = .next { s with
      completions := s.completions ++ [⟨.startSeed, .u8 (startSeed s.params a), .ok⟩] }) ∧
    (∀ x, exec (.reverseBytes x) s = .next { s with
      completions := s.completions ++ [⟨.reverseBytes, .u32 (reverseBytes x), .ok⟩] }) ∧
    (∀ a r v, exec (.encodeWrite a r v) s = .next { s with
      completions := s.completions ++ [⟨.encodeWrite, .u64 (encodeWrite s.params a r v), .ok⟩] }) ∧
    (∀ a r, exec (.encodeRequest a r) s = .next { s with
      completions := s.completions ++ [⟨.encodeRequest, .u32 (encodeRequest s.params a r), .ok⟩] }) ∧
    (∀ raw, exec (.decodeResponse raw) s = .next { s with
      completions := s.completions ++
        [⟨.decodeResponse, .u32 (decodeResponse s.params raw).1, (decodeResponse s.params raw).2⟩] })

/-- `byteCRC` is the register with taps at bits 0, 1 and 2 clocked eight times, data bit 0 first, for all 65536 operand
pairs (40_crc_engine.md R70 with D6, R74). -/
def Obligations.ByteCrcIsTapRegister : Prop :=
  ∀ (s : State) (b sd : U8), s.phase = .idle → s.params.poly = 0x07#8 →
    exec (.byteCRC b sd) s = .next { s with
      completions := s.completions ++ [⟨.byteCRC, .u8 (crcTapByte b sd), .ok⟩] }

/-- `wordCRC` folds the four bytes of its value, low byte first, each result seeding the next (40_crc_engine.md R71). -/
def Obligations.WordCrcFoldsLowByteFirst : Prop :=
  ∀ (s : State) (v : U32) (sd : U8), s.phase = .idle →
    exec (.wordCRC v sd) s = .next { s with
      completions := s.completions ++ [⟨.wordCRC,
        .u8 ([0, 1, 2, 3].foldl (fun acc k => byteCRC s.params (v.extractLsb' (8 * k) 8) acc) sd), .ok⟩] } ∧
    (s.params.poly = 0x07#8 →
      wordCRC s.params 0x00000000#32 0x00#8 = 0x00#8 ∧ wordCRC s.params 0x00000001#32 0x00#8 = 0x31#8 ∧
      wordCRC s.params 0x01000000#32 0x00#8 = 0x89#8 ∧ wordCRC s.params 0x12345678#32 0x00#8 = 0x4C#8)

/-- `startSeed` gives SEED[a] for bus addresses 0 to 3 and SEED_OTHER for every other 8-bit address, no bit of which is
masked; so the seeds of addresses 0 to 3 are nonzero and distinct when the four constants are, and the fallback is 0 when
SEED_OTHER is; no status but `OK` (40_crc_engine.md R72). -/
def Obligations.StartSeedByAddress : Prop :=
  ∀ (s : State) (a : U8), s.phase = .idle →
    ∃ seed : U8, exec (.startSeed a) s = .next { s with
        completions := s.completions ++ [⟨.startSeed, .u8 seed, .ok⟩] } ∧
      (a.toNat = 0 → seed = s.params.seed0) ∧ (a.toNat = 1 → seed = s.params.seed1) ∧
      (a.toNat = 2 → seed = s.params.seed2) ∧ (a.toNat = 3 → seed = s.params.seed3) ∧
      (4 ≤ a.toNat → seed = s.params.seedOther) ∧
      (s.params.seedOther = 0x00#8 → 4 ≤ a.toNat → seed = 0x00#8) ∧
      (s.params.seedsDistinctNonzero = true → a.toNat < 4 → seed ≠ 0x00#8 ∧
        ∀ b : U8, b.toNat < 4 → b ≠ a → startSeed s.params b ≠ seed)

/-- The CRC is linear over exclusive or, byte by byte and word by word, whatever the polynomial
(40_crc_engine.md R76 (c)). -/
def Obligations.CrcIsLinear : Prop :=
  ∀ p : Params,
    (∀ b1 b2 s1 s2 : U8, byteCRC p (b1 ^^^ b2) (s1 ^^^ s2) = byteCRC p b1 s1 ^^^ byteCRC p b2 s2) ∧
    (∀ (v1 v2 : U32) (s1 s2 : U8), wordCRC p (v1 ^^^ v2) (s1 ^^^ s2) = wordCRC p v1 s1 ^^^ wordCRC p v2 s2)

/-- The data folds into the register bit-reversed, and the engine equals the most-significant-bit-first CRC-8 with
polynomial 0x07 over the bit-reversed byte (40_crc_engine.md R76 (d), R77; 90_conflicts.md C1). -/
def Obligations.CrcIsMsbFirstOfReversedByte : Prop :=
  ∀ (p : Params) (b s : U8), p.poly = 0x07#8 →
    byteCRC p b s = byteCRC p 0 (s ^^^ bitrev8 b) ∧ byteCRC p b s = crc8MsbFirst (bitrev8 b) s

/-- For a fixed byte the CRC permutes the register values, and for a fixed register it permutes the bytes: every target
is reached exactly once (40_crc_engine.md R76 (e)). -/
def Obligations.CrcIsBijective : Prop :=
  ∀ p : Params, p.poly = 0x07#8 →
    (∀ b : U8, Function.Bijective (fun s => byteCRC p b s)) ∧ (∀ s : U8, Function.Bijective (fun b => byteCRC p b s))

/-- Where the default seeds come from (40_crc_engine.md R79; PRESUMED values, D1 to D3, log 2): each is the CRC of the sync
byte and the address; so for bus addresses 0 to 3 the CRC byte of a write or request datagram is the CRC, from 0x00, of
all the wire bytes before it. -/
def Obligations.DefaultSeedsCoverWholeDatagram : Prop :=
  (∀ a : U8, a.toNat < 4 → startSeed Params.default a =
    byteCRC Params.default a (byteCRC Params.default Params.default.sync 0)) ∧
  Params.default.rseed = byteCRC Params.default 0xFF (byteCRC Params.default Params.default.sync 0) ∧
  Params.default.seedsDistinctNonzero = true ∧
  (∀ (a r : U8) (v : U32), a.toNat < 4 →
    byteAt (encodeWrite Params.default a r v) 7 =
      (wireBytes 7 (encodeWrite Params.default a r v)).foldl (fun acc b => byteCRC Params.default b acc) 0 ∧
    byteAt ((encodeRequest Params.default a r).setWidth 64) 3 =
      (wireBytes 3 ((encodeRequest Params.default a r).setWidth 64)).foldl
        (fun acc b => byteCRC Params.default b acc) 0)

/-- `reverseBytes` exchanges byte 0 with byte 3 and byte 1 with byte 2, the bits inside a byte keeping their order
(41_datagram_codec.md R80). -/
def Obligations.ReverseBytesSwapsEnds : Prop :=
  ∀ (s : State) (x : U32), s.phase = .idle →
    ∃ y : U32, exec (.reverseBytes x) s = .next { s with
        completions := s.completions ++ [⟨.reverseBytes, .u32 y, .ok⟩] } ∧
      y.extractLsb' 0 8 = x.extractLsb' 24 8 ∧ y.extractLsb' 8 8 = x.extractLsb' 16 8 ∧
      y.extractLsb' 16 8 = x.extractLsb' 8 8 ∧ y.extractLsb' 24 8 = x.extractLsb' 0 8 ∧
      (x = 0x12345678#32 → y = 0x78563412#32)

/-- Byte reversal is its own inverse, a permutation of the 32-bit values and of the 32 bit positions, and commutes with
exclusive or (41_datagram_codec.md R81). -/
def Obligations.ReverseBytesSelfInverse : Prop :=
  (∀ x : U32, reverseBytes (reverseBytes x) = x) ∧ Function.Bijective reverseBytes ∧
  (∀ (x : U32) (i : Nat), i < 32 → (reverseBytes x).getLsbD i = x.getLsbD (8 * (3 - i / 8) + i % 8)) ∧
  (∀ x y : U32, reverseBytes (x ^^^ y) = reverseBytes x ^^^ reverseBytes y)

/-- `encodeWrite` from every idle state: SYNC, address, write flag and register number, payload most significant byte
first, and the CRC over register field and payload from the address's seed. Bit 7 of the register operand is ignored; the
result is never all ones when SYNC is not 0xFF (41_datagram_codec.md R82; the flag policy is the rule's, D7). The last two
clauses are worked examples and need the PRESUMED default SYNC and SEED values (D1, D2, log 2; 40_crc_engine.md R79 asks to
name them); the layout holds for all parameters. -/
def Obligations.EncodeWriteLayout : Prop :=
  (∀ (s : State) (a r : U8) (v : U32), s.phase = .idle → s.params.flagPolicy = .force →
    ∃ w : U64, exec (.encodeWrite a r v) s = .next { s with
        completions := s.completions ++ [⟨.encodeWrite, .u64 w, .ok⟩] } ∧
      w.extractLsb' 0 8 = s.params.sync ∧ w.extractLsb' 8 8 = a ∧ w.getLsbD 23 = true ∧
      w.extractLsb' 16 7 = r.extractLsb' 0 7 ∧ w.extractLsb' 24 8 = v.extractLsb' 24 8 ∧
      w.extractLsb' 32 8 = v.extractLsb' 16 8 ∧ w.extractLsb' 40 8 = v.extractLsb' 8 8 ∧
      w.extractLsb' 48 8 = v.extractLsb' 0 8 ∧
      w.extractLsb' 56 8 = wordCRC s.params (w.extractLsb' 24 32)
        (byteCRC s.params (w.extractLsb' 16 8) (startSeed s.params a)) ∧
      encodeWrite s.params a (r ||| 0x80#8) v = w ∧ encodeWrite s.params a (r &&& 0x7F#8) v = w ∧
      (s.params.sync ≠ 0xFF#8 → w ≠ sentinel64)) ∧
  encodeWrite Params.default 0x00 0x10 0x00061F0A = 0x9E0A1F0600900005#64 ∧
  encodeWrite Params.default 0x03 0x7F 0xFFFFFFFF = 0x56FFFFFFFFFF0305#64

/-- `encodeRequest` from every idle state: SYNC, address, write flag clear, register number, and the CRC of the register
field from the address's seed. Bit 7 of the register operand is ignored (41_datagram_codec.md R83; the flag policy is the
rule's, D7). The last three clauses are worked examples under the default parameters, whose SYNC and SEED values are
PRESUMED (D1, D2, log 2; 40_crc_engine.md R79 asks to name them); the layout holds for all parameters. -/
def Obligations.EncodeRequestLayout : Prop :=
  (∀ (s : State) (a r : U8), s.phase = .idle → s.params.flagPolicy = .force →
    ∃ q : U32, exec (.encodeRequest a r) s = .next { s with
        completions := s.completions ++ [⟨.encodeRequest, .u32 q, .ok⟩] } ∧
      q.extractLsb' 0 8 = s.params.sync ∧ q.extractLsb' 8 8 = a ∧ q.getLsbD 23 = false ∧
      q.extractLsb' 16 7 = r.extractLsb' 0 7 ∧
      q.extractLsb' 24 8 = byteCRC s.params (q.extractLsb' 16 8) (startSeed s.params a) ∧
      encodeRequest s.params a (r ||| 0x80#8) = q ∧ encodeRequest s.params a (r &&& 0x7F#8) = q) ∧
  encodeRequest Params.default 0x00 0x06 = 0x6F060005#32 ∧
  encodeRequest Params.default 0x04 0x06 = 0x27060405#32 ∧
  encodeRequest Params.default 0x00 0x82 = encodeRequest Params.default 0x00 0x02

/-- The two readings of who sets the write flag (30_encoding.md R55 with D7; 93_implementation_defined.md U3). Under
`copy` the register field is the operand; the two agree on requests when the operand is below 0x80 and on writes when it
is not. -/
def Obligations.FlagPoliciesAgreeWhereSaid : Prop :=
  ∀ (p q : Params) (a r : U8) (v : U32), p.flagPolicy = .force → q = { p with flagPolicy := .copy } →
    (encodeWrite q a r v).extractLsb' 16 8 = r ∧ (encodeRequest q a r).extractLsb' 16 8 = r ∧
    (r.toNat < 0x80 → encodeRequest q a r = encodeRequest p a r) ∧
    (0x80 ≤ r.toNat → encodeWrite q a r v = encodeWrite p a r v)

/-- `decodeResponse` from every idle state: the all-ones word is a timeout, tested first; else the received CRC `P[63:56]`
is compared with the CRC of `P[23:16]` and `P[55:24]` from RSEED; both failures give 0xFFFFFFFF, a match gives the payload
in native order (41_datagram_codec.md R84 with D8, D9; 60_exceptions.md R113, R115). -/
def Obligations.DecodeResponseOutcomes : Prop :=
  ∀ (s : State) (raw : U64), s.phase = .idle →
    ∃ (v : U32) (st : Status), exec (.decodeResponse raw) s = .next { s with
        completions := s.completions ++ [⟨.decodeResponse, .u32 v, st⟩] } ∧
      (raw = 0xFFFFFFFFFFFFFFFF#64 → v = 0xFFFFFFFF#32 ∧ st = .replyTimeout) ∧
      (raw ≠ 0xFFFFFFFFFFFFFFFF#64 →
        wordCRC s.params (raw.extractLsb' 24 32) (byteCRC s.params (raw.extractLsb' 16 8) s.params.rseed) ≠
          raw.extractLsb' 56 8 → v = 0xFFFFFFFF#32 ∧ st = .crcMismatch) ∧
      (raw ≠ 0xFFFFFFFFFFFFFFFF#64 →
        wordCRC s.params (raw.extractLsb' 24 32) (byteCRC s.params (raw.extractLsb' 16 8) s.params.rseed) =
          raw.extractLsb' 56 8 →
        st = .ok ∧ v.extractLsb' 24 8 = raw.extractLsb' 24 8 ∧ v.extractLsb' 16 8 = raw.extractLsb' 32 8 ∧
          v.extractLsb' 8 8 = raw.extractLsb' 40 8 ∧ v.extractLsb' 0 8 = raw.extractLsb' 48 8)

/-- Bytes 0 and 1 of a response are not examined: two words that agree in bits 63:16, neither all ones, decode alike
(30_encoding.md R53, R62 with D16; 41_datagram_codec.md R84 (a); 90_conflicts.md C7). -/
def Obligations.SyncAndAddressNotExamined : Prop :=
  ∀ (p : Params) (raw raw' : U64), raw.extractLsb' 16 48 = raw'.extractLsb' 16 48 →
    raw ≠ sentinel64 → raw' ≠ sentinel64 → decodeResponse p raw = decodeResponse p raw'

/-- `decodeResponse` answers `OK` exactly on valid responses, and then with the reversed payload (41_datagram_codec.md
R85). -/
def Obligations.OkExactlyOnValidResponses : Prop :=
  ∀ (p : Params) (raw : U64),
    ((decodeResponse p raw).2 = .ok ↔ (raw ≠ 0xFFFFFFFFFFFFFFFF#64 ∧
      raw.extractLsb' 56 8 = wordCRC p (raw.extractLsb' 24 32) (byteCRC p (raw.extractLsb' 16 8) p.rseed))) ∧
    ((decodeResponse p raw).2 = .ok → (decodeResponse p raw).1 = reverseBytes (raw.extractLsb' 24 32)) ∧
    ((decodeResponse p raw).2 ≠ .ok → (decodeResponse p raw).1 = 0xFFFFFFFF#32)

/-- Round trip: a simulated correct reply with matching CRC, whatever its first two bytes and register field, gives back
the payload bit for bit; `exec` answers it from every idle state (41_datagram_codec.md R86). -/
def Obligations.ReplyRoundTrip : Prop :=
  ∀ (s : State) (b0 b1 rf : U8) (v : U32), s.phase = .idle →
    makeResponse s.params b0 b1 rf v ≠ 0xFFFFFFFFFFFFFFFF#64 →
    exec (.decodeResponse (makeResponse s.params b0 b1 rf v)) s = .next { s with
      completions := s.completions ++ [⟨.decodeResponse, .u32 v, .ok⟩] }

/-- Whether a changed response still passes depends only on the flipped bits: a flip pattern over bits 63:16 of a valid
response passes exactly when its own CRC from 0x00 matches (40_crc_engine.md R78). -/
def Obligations.FlipPassesByPatternAlone : Prop :=
  ∀ (p : Params) (raw e : U64), validResponse p raw = true → raw ^^^ e ≠ sentinel64 →
    validResponse p (raw ^^^ e) = flipPasses p e

/-- Corruption is caught: flipping an odd number of bits of a valid response within bits 63:16, or any two of them, gives
the failure sentinel and a status that is not `OK`; in particular any single bit (40_crc_engine.md R78). -/
def Obligations.SmallCorruptionIsCaught : Prop :=
  ∀ (p : Params) (raw e : U64), p.poly = 0x07#8 → validResponse p raw = true → e.extractLsb' 0 16 = 0 →
    (oddBits e = true ∨ ∃ i j, 16 ≤ i ∧ i < j ∧ j < 64 ∧ e = (1#64 <<< i) ^^^ (1#64 <<< j)) →
    (decodeResponse p (raw ^^^ e)).1 = 0xFFFFFFFF#32 ∧ (decodeResponse p (raw ^^^ e)).2 ≠ .ok

/-! ### The transport operations -/

/-- With CHAN_PRESENT 0 the two listening operations complete at once with CHANNEL_ABSENT and the all-ones value, having
called no primitive (42_transport_driver.md R109 with D10; 60_exceptions.md R111; 95_test_vectors.md V7). Only the captured
operands change beside the completion: that OP, CHAN_PRESENT, ADDR and REG are captured without a channel too is DEDUCED
from 10_state.md R11 (log 14), and that registers hold any stated value in IDLE is a DESIGN CHOICE (log 4; R16 of
10_state.md leaves them dead). -/
def Obligations.AbsentChannelEndsTheListen : Prop :=
  ∀ (s : State) (a r : U8), s.phase = .idle →
    (exec (.awaitReply false) s = .next { s with
      regs := { s.regs with op := .awaitReply, chanPresent := false },
      completions := s.completions ++ [⟨.awaitReply, .u64 0xFFFFFFFFFFFFFFFF#64, .channelAbsent⟩] }) ∧
    (exec (.read false a r) s = .next { s with
      regs := { s.regs with op := .read, chanPresent := false, addr := a, reg := r },
      completions := s.completions ++ [⟨.read, .u32 0xFFFFFFFF#32, .channelAbsent⟩] })

/-- `write`. Without a channel it completes at once with CHANNEL_ABSENT and no primitive is called; that it captures its
operands then too is DEDUCED (log 14). With one, whenever its nine calls return: one flush, then the eight bytes of the
write datagram, byte 0 first, and a completion `OK`. Every byte handed over before has been physically sent: the flush
waited for it (20_memory.md R41). The transmit stream grows by the datagram, the receive buffer by what arrived meanwhile;
nothing is read; nothing else outside the block changes (42_transport_driver.md R91, R92). The clauses on registers in
either IDLE state, that the captured operands stay and that CNT, RAW and RXI keep their values, are the model's DESIGN
CHOICE (log 4): the spec leaves registers dead in IDLE (10_state.md R16, R23; 93_implementation_defined.md U11). -/
def Obligations.WriteSendsItsDatagram : Prop :=
  (∀ (s : State) (a r : U8) (v : U32), s.phase = .idle →
    exec (.write false a r v) s = .next { s with
      regs := { s.regs with op := .write, chanPresent := false, addr := a, reg := r, value := v },
      completions := s.completions ++ [⟨.write, .none, .channelAbsent⟩] }) ∧
  (∀ (s : State) (a r : U8) (v : U32), s.phase = .idle → (slotsOf 9 s.env).all Slot.answers = true →
    ∃ t : State, exec (.write true a r v) s = .next t ∧ t.phase = .idle ∧
      t.calls = s.calls ++ sendCalls 8 (encodeWrite s.params a r v) ∧
      t.completions = s.completions ++ [⟨.write, .none, .ok⟩] ∧
      t.env.txSent ++ t.env.txPending =
        s.env.txSent ++ s.env.txPending ++ wireBytes 8 (encodeWrite s.params a r v) ∧
      s.env.txSent ++ s.env.txPending <+: t.env.txSent ∧
      t.env.rx = s.env.rx ++ arrivalsOf 9 s.env ∧ t.env.script = s.env.script.drop 9 ∧ t.env.rest = s.env.rest ∧
      t.params = s.params ∧ t.inbox = s.inbox ∧
      t.regs.addr = a ∧ t.regs.reg = r ∧ t.regs.value = v ∧
      t.regs.cnt = s.regs.cnt ∧ t.regs.raw = s.regs.raw ∧ t.regs.rxi = s.regs.rxi)

/-- `request`. Without a channel it completes at once with CHANNEL_ABSENT and no primitive is called; that it captures its
operands then too is DEDUCED (log 14). With one, whenever its five calls return: one flush, then the four bytes of the
request datagram, and a completion `OK`; it does not listen. Every byte handed over before has been physically sent
(20_memory.md R41; 42_transport_driver.md R91, R93). Frame as for `write`, VALUE unchanged too: the clauses on registers in
either IDLE state are the model's DESIGN CHOICE (log 4), where the spec leaves registers dead (10_state.md R16, R23;
93_implementation_defined.md U11). -/
def Obligations.RequestSendsItsDatagram : Prop :=
  (∀ (s : State) (a r : U8), s.phase = .idle →
    exec (.request false a r) s = .next { s with
      regs := { s.regs with op := .request, chanPresent := false, addr := a, reg := r },
      completions := s.completions ++ [⟨.request, .none, .channelAbsent⟩] }) ∧
  (∀ (s : State) (a r : U8), s.phase = .idle → (slotsOf 5 s.env).all Slot.answers = true →
    ∃ t : State, exec (.request true a r) s = .next t ∧ t.phase = .idle ∧
      t.calls = s.calls ++ sendCalls 4 ((encodeRequest s.params a r).setWidth 64) ∧
      t.completions = s.completions ++ [⟨.request, .none, .ok⟩] ∧
      t.env.txSent ++ t.env.txPending =
        s.env.txSent ++ s.env.txPending ++ wireBytes 4 ((encodeRequest s.params a r).setWidth 64) ∧
      s.env.txSent ++ s.env.txPending <+: t.env.txSent ∧
      t.env.rx = s.env.rx ++ arrivalsOf 5 s.env ∧ t.env.script = s.env.script.drop 5 ∧ t.env.rest = s.env.rest ∧
      t.params = s.params ∧ t.inbox = s.inbox ∧ t.regs.addr = a ∧ t.regs.reg = r ∧
      t.regs.value = s.regs.value ∧ t.regs.cnt = s.regs.cnt ∧ t.regs.raw = s.regs.raw ∧ t.regs.rxi = s.regs.rxi)

/-- `awaitReply` with a channel whose calls return and whose drain ends, whatever the line delivers afterwards: it
completes, with exactly one of the two call sequences of 42_transport_driver.md R106. Either 8 bytes were taken, the
completion is `OK` and RAW is those bytes assembled first byte lowest (R98), or the budget ran out and the completion is
SENTINEL64 with REPLY_TIMEOUT (R94; R97 with D11, R99 with D12, log 22). The flush has sent every pending byte, and the
listen sends none (20_memory.md R41; 42_transport_driver.md R103). The clauses on registers in the IDLE state after
completion, that RAW and CNT hold what the listen left and that ADDR, REG, VALUE, DGRAM, TXN and TXI keep their values, are
the model's DESIGN CHOICE (log 4): the spec leaves registers dead there (10_state.md R16, R23;
93_implementation_defined.md U11). -/
def Obligations.AwaitReplyCompletes : Prop :=
  ∀ s : State, s.phase = .idle → s.env.prompt = true → DrainEnds 0 s.env →
    ∃ (t : State) (l : List Call), exec (.awaitReply true) s = .next t ∧ t.phase = .idle ∧ t.calls = s.calls ++ l ∧
      ((∃ raw, ListenReply s.params l raw ∧ t.regs.raw = raw ∧
          t.completions = s.completions ++ [⟨.awaitReply, .u64 raw, .ok⟩]) ∨
        (ListenTimeout s.params l ∧ t.regs.cnt = 0 ∧
          t.completions = s.completions ++ [⟨.awaitReply, .u64 0xFFFFFFFFFFFFFFFF#64, .replyTimeout⟩])) ∧
      t.env.txPending = [] ∧ t.env.txSent = s.env.txSent ++ s.env.txPending ∧
      t.params = s.params ∧ t.inbox = s.inbox ∧ t.regs.addr = s.regs.addr ∧ t.regs.reg = s.regs.reg ∧
      t.regs.value = s.regs.value ∧ t.regs.dgram = s.regs.dgram ∧ t.regs.txn = s.regs.txn ∧
      t.regs.txi = s.regs.txi

/-- `read` with a channel whose calls return and whose drain, after the five calls of the request, ends, whatever the line
delivers afterwards: the request's calls followed by one of the two listens of R106; the completion is `decodeResponse` of
the assembled reply, or SENTINEL32 with REPLY_TIMEOUT (42_transport_driver.md R95, R106; the shapes of the poll and of the
drain are D11 and D12, log 22). The request has been physically sent (20_memory.md R41). The clauses on ADDR, REG and VALUE
in the IDLE state after completion are the model's DESIGN CHOICE (log 4): the spec leaves registers dead there (10_state.md
R16, R23; 93_implementation_defined.md U11). -/
def Obligations.ReadCompletes : Prop :=
  ∀ (s : State) (a r : U8), s.phase = .idle → s.env.prompt = true → DrainEnds 5 s.env →
    ∃ (t : State) (l : List Call), exec (.read true a r) s = .next t ∧ t.phase = .idle ∧
      t.calls = s.calls ++ sendCalls 4 ((encodeRequest s.params a r).setWidth 64) ++ l ∧
      ((∃ raw, ListenReply s.params l raw ∧
          t.completions = s.completions ++
            [⟨.read, .u32 (decodeResponse s.params raw).1, (decodeResponse s.params raw).2⟩]) ∨
        (ListenTimeout s.params l ∧
          t.completions = s.completions ++ [⟨.read, .u32 0xFFFFFFFF#32, .replyTimeout⟩])) ∧
      t.env.txPending = [] ∧ t.env.txSent =
        s.env.txSent ++ s.env.txPending ++ wireBytes 4 ((encodeRequest s.params a r).setWidth 64) ∧
      t.params = s.params ∧ t.inbox = s.inbox ∧ t.regs.addr = a ∧ t.regs.reg = r ∧ t.regs.value = s.regs.value

/-- `read` is `request`, then `awaitReply`, then `decodeResponse`, done as one operation: on a channel whose calls return
and whose drain, after the five calls of the request, ends, whatever the line delivers afterwards, the operations issued
one after the other make the same calls and leave the same channel, and the value and status of the `read` are the decoding
of the raw reply (30_encoding.md R66; 42_transport_driver.md R95; the decoding stands here as the function that
PureOperationsComplete ties to the operation). -/
def Obligations.ReadIsComposite : Prop :=
  ∀ (s : State) (a r : U8), s.phase = .idle → s.env.prompt = true → DrainEnds 5 s.env →
    ∃ (s1 s2 t : State) (raw : U64) (st : Status),
      exec (.request true a r) s = .next s1 ∧ s1.completions = s.completions ++ [⟨.request, .none, .ok⟩] ∧
      exec (.awaitReply true) s1 = .next s2 ∧
      s2.completions = s1.completions ++ [⟨.awaitReply, .u64 raw, st⟩] ∧
      exec (.read true a r) s = .next t ∧ t.phase = .idle ∧ s2.phase = .idle ∧ t.env = s2.env ∧ t.calls = s2.calls ∧
      t.completions = s.completions ++
        [⟨.read, .u32 (decodeResponse s.params raw).1, (decodeResponse s.params raw).2⟩]

/-- On a line where nothing arrives, a listen drains what is buffered and then times out after exactly REPLY_BUDGET + 1
tests and REPLY_BUDGET poll delays; the buffer is left empty (42_transport_driver.md R97, R99, R108; 60_exceptions.md R112;
95_test_vectors.md V8). The exact count of tests rests on the poll's shape, D11, and the drain's calls on D12 (log 22). -/
def Obligations.SilentLineTimesOut : Prop :=
  ∀ s : State, s.phase = .idle → s.env.prompt = true → s.env.silent = true →
    ∃ t : State, exec (.awaitReply true) s = .next t ∧ t.phase = .idle ∧ t.env.rx = [] ∧
      t.calls = s.calls ++ [.flush] ++ drainCalls (staleOf s.env.rx) ++ [.avail 0, .delay s.params.echoDelayUs] ++
        pollCalls s.params.pollDelayUs (List.replicate s.params.replyBudget 0) ++ [.avail 0] ∧
      t.completions = s.completions ++ [⟨.awaitReply, .u64 0xFFFFFFFFFFFFFFFF#64, .replyTimeout⟩]

/-- A good read, end to end. The receive buffer is empty and nothing arrives before the turnaround delay; a valid reply
arrives whole during that delay or during the `j`-th poll delay, `j` within the budget; the calls return. Then the read
completes with the reply's value and `OK`, and the reply is what was taken, whatever arrives after it
(42_transport_driver.md R95, R97, R98; 41_datagram_codec.md R86). That a reply during the last poll delay still counts
(`j` equal to the budget) is the last test of D11, and the number of calls before it D11 and D12 (log 22). That RAW still
holds the reply in the IDLE state after completion is a DESIGN CHOICE (log 4; 10_state.md R16 leaves it dead). -/
def Obligations.GoodReadReturnsTheValue : Prop :=
  ∀ (s : State) (a r b0 b1 rf : U8) (v : U32) (j : Nat), s.phase = .idle → s.env.rx = [] →
    j ≤ s.params.replyBudget → makeResponse s.params b0 b1 rf v ≠ 0xFFFFFFFFFFFFFFFF#64 →
    (slotsOf (17 + 2 * j) s.env).all Slot.answers = true → arrivalsOf (7 + 2 * j) s.env = [] →
    arrivalsOf (8 + 2 * j) s.env = wireBytes 8 (makeResponse s.params b0 b1 rf v) →
    ∃ t : State, exec (.read true a r) s = .next t ∧ t.phase = .idle ∧
      t.regs.raw = makeResponse s.params b0 b1 rf v ∧
      t.completions = s.completions ++ [⟨.read, .u32 v, .ok⟩]

/-- Each of the eleven operations ends with exactly one completion, of its own, and PHASE back in IDLE, success or
failure, on a channel whose calls return and, for the two operations that listen, whose drain ends (60_exceptions.md R116;
42_transport_driver.md R107, R108; 10_state.md R21). -/
def Obligations.EveryOperationEndsOnce : Prop :=
  ∀ (i : Instr) (op : Op) (s : State), opOf i = some op → s.phase = .idle → s.env.prompt = true →
    (op = .awaitReply → DrainEnds 0 s.env) → (op = .read → DrainEnds 5 s.env) →
    ∃ (t : State) (c : Completion), exec i s = .next t ∧ t.phase = .idle ∧ c.op = op ∧
      t.completions = s.completions ++ [c]

/-- Every instruction answers a next state from every idle state, whatever the channel does: no fault, no refusal. With
the datagram rows this holds in every phase (60_exceptions.md R116: failures are values; log 11: an operation whose call
has not returned is left in progress). -/
def Obligations.IdleBlockNeverStops : Prop :=
  ∀ (i : Instr) (s : State), s.phase = .idle ∨ isOperation i = false → ∃ t, exec i s = .next t

/-- The datagram rows: the datagram's bytes join the receive buffer in wire order, sync first and CRC last, and nothing
else changes, in every phase (30_encoding.md R54; 20_memory.md R33, R45; the reading of these rows is the model's,
log 6). -/
def Obligations.DatagramsArriveInWireOrder : Prop :=
  ∀ (s : State) (y a f : U8) (d : U32) (c : U8),
    exec (.writeDatagram y a f d c) s = .next { s with env := { s.env with rx := s.env.rx ++
      [y, a, f, d.extractLsb' 0 8, d.extractLsb' 8 8, d.extractLsb' 16 8, d.extractLsb' 24 8, c] } } ∧
    exec (.requestDatagram y a f c) s = .next { s with env := { s.env with rx := s.env.rx ++ [y, a, f, c] } } ∧
    exec (.responseDatagram y a f d c) s = .next { s with env := { s.env with rx := s.env.rx ++
      [y, a, f, d.extractLsb' 0 8, d.extractLsb' 8 8, d.extractLsb' 16 8, d.extractLsb' 24 8, c] } }

/-! ### The phase machine -/

/-- Bounded time: from WAITING, if every call returns, the operation completes with at most REPLY_BUDGET + 1 further
`ChanAvail` tests, whatever the channel delivers (42_transport_driver.md R108; R97 with D11, log 22), and within
2 * REPLY_BUDGET + 10 ticks. The tick, one primitive call, is the model's DESIGN CHOICE (log 11); its bound adds to those
tests the REPLY_BUDGET poll delays (R97), the one echo delay (R96) and the eight reads (R98). -/
def Obligations.ListenIsBounded : Prop :=
  ∀ s : State, s.inv = true → s.phase = .waiting → s.env.prompt = true →
    ∃ (t : State) (l : List Call) (c : Completion),
      runOperation (2 * s.params.replyBudget + 10) s = .next t ∧ t.phase = .idle ∧ t.calls = s.calls ++ l ∧
      availsOf l ≤ s.params.replyBudget + 1 ∧ t.completions = s.completions ++ [c] ∧ c.op = s.regs.op

/-- The drain has no budget: on a line that delivers a byte during every call, a block in DRAINING stays there for ever,
BUSY, with no completion (70_reset_and_hazards.md R138; 42_transport_driver.md R99 with D12; an endless line as one slot
repeated is log 8). -/
def Obligations.EndlessDrain : Prop :=
  ∀ (s : State) (n : Nat), s.inv = true → s.phase = .draining → s.env.prompt = true → s.env.neverSilent = true →
    ∃ t : State, Host.Core.run Sys2Proof.core n s = .next t ∧ t.phase = .draining ∧ t.completions = s.completions

/-- A call that never returns holds the block: PHASE, every register, the record of calls and the completions stay as they
are for any number of steps (70_reset_and_hazards.md R138; 20_memory.md R45 (d); 93_implementation_defined.md U6). That such
a block takes steps at all, and that the call is not recorded, is the model's (logs 9 and 11). -/
def Obligations.HungCallHolds : Prop :=
  ∀ (s : State) (n : Nat), s.inv = true → s.phase ≠ .idle → s.phase ≠ .timedOut → s.env.script = [] →
    s.env.rest.ending = .pending →
    ∃ t : State, Host.Core.run Sys2Proof.core n s = .next t ∧ t.phase = s.phase ∧ t.regs = s.regs ∧
      t.calls = s.calls ∧ t.completions = s.completions

/-- PHASE moves as the table of 42_transport_driver.md R100 says (with D15). Out of IDLE, by acceptance: a pure operation
and a transport operation without a channel complete in IDLE, the latter with CHANNEL_ABSENT; `write`, `request` and `read`
with a channel go on as the run of a block in SENDING, their operands captured and DGRAM, TXN and TXI set (R102); a lone
`awaitReply` as the run of a block in DRAINING; a tick moves nothing. Out of a BUSY phase: the only moves are those of the
table, each under its condition and with its completion, and the move to IDLE by the reset input
(70_reset_and_hazards.md R132). The run by ticks is log 11, capture without a channel log 14, the place in the phase
log 12. R100 writes SENTINEL64 to RAW before TIMED_OUT is left; that RAW still holds it in the IDLE state after completion is
a DESIGN CHOICE (log 4; 10_state.md R16, R23 and 93_implementation_defined.md U11 leave it dead). -/
def Obligations.PhaseMovesAsTabled : Prop :=
  (∀ (i : Instr) (op : Op) (s : State), opOf i = some op → op.code.getLsbD 3 = false → s.phase = .idle →
    ∃ c : Completion, c.op = op ∧ exec i s = .next { s with completions := s.completions ++ [c] }) ∧
  (∀ (s : State) (a r : U8) (v : U32), s.phase = .idle →
    ∀ i ∈ [Instr.write false a r v, .request false a r, .awaitReply false, .read false a r],
      ∃ (g : Regs) (c : Completion), some c.op = opOf i ∧ c.status = .channelAbsent ∧
        exec i s = .next { s with regs := g, completions := s.completions ++ [c] }) ∧
  (∀ (s : State) (a r : U8) (v : U32), s.phase = .idle →
    exec (.write true a r v) s = runToIdle { s with phase := .sending, regs := { s.regs with
      op := .write, chanPresent := true, addr := a, reg := r, value := v,
      dgram := encodeWrite s.params a r v, txn := 8, txi := 0, point := .first } }) ∧
  (∀ (s : State) (a r : U8), s.phase = .idle →
    exec (.request true a r) s = runToIdle { s with phase := .sending, regs := { s.regs with
      op := .request, chanPresent := true, addr := a, reg := r,
      dgram := (encodeRequest s.params a r).setWidth 64, txn := 4, txi := 0, point := .first } }) ∧
  (∀ (s : State) (a r : U8), s.phase = .idle →
    exec (.read true a r) s = runToIdle { s with phase := .sending, regs := { s.regs with
      op := .read, chanPresent := true, addr := a, reg := r,
      dgram := (encodeRequest s.params a r).setWidth 64, txn := 4, txi := 0, point := .first } }) ∧
  (∀ s : State, s.phase = .idle → exec (.awaitReply true) s = runToIdle { s with
    phase := .draining, regs := { s.regs with op := .awaitReply, chanPresent := true, point := .first } }) ∧
  (∀ s : State, s.phase = .idle → tick s = .next s) ∧
  (∀ s t : State, s.inv = true → s.phase ≠ .idle → tick s = .next t →
    t.phase = s.phase ∨ (t.phase = .idle ∧ s.env.slot.ending = .reset ∧ t.completions = s.completions) ∨
      PhaseMove s t)

/-- The invariant of the phase machine is kept by every step: OP, TXN, DGRAM and CHAN_PRESENT fit the captured operands
while sending, CNT never exceeds the budget, the indexes stay in range, and the receive buffer holds what is about to be
read (10_state.md R11, R12, R16; 20_memory.md R36, R44; 60_exceptions.md R119). -/
def Obligations.StepKeepsTheInvariant : Prop :=
  ∀ s t : State, s.inv = true → step s = .next t → t.inv = true

/-- `ChanRead` is never called on an empty buffer: from a state that meets the invariant no step faults
(20_memory.md R36; 93_implementation_defined.md U4: "a model should prove this rather than assume it"). -/
def Obligations.NoReadOnEmptyBuffer : Prop :=
  ∀ (s : State) (f : Fault), s.inv = true → step s ≠ .fault f

/-- After reset PHASE is IDLE and BUSY is 0 (10_state.md R23 with D18), and the three invariants of the model hold. The
other clauses are the model's own: R23 says that the parameters are not state and unchanged by reset, the model carries them
in the state (DESIGN CHOICE, log 1) with the defaults, some of them PRESUMED (log 2); the empty record is log 19. -/
def Obligations.ResetIsIdle : Prop :=
  State.reset.phase = .idle ∧ State.reset.busy = false ∧ State.reset.inv = true ∧
  State.reset.streamRecorded = true ∧ State.reset.flushedToListen = true ∧
  State.reset.params = Params.default ∧ State.reset.calls = [] ∧ State.reset.completions = []

/-- The reset input puts PHASE at IDLE and changes nothing else, calls no primitive and presents no completion; a reset
during a primitive call of a BUSY block abandons the operation: bytes handed over stay handed over, and no call or
completion is recorded (70_reset_and_hazards.md R130 to R132, with D18). That the call cut by the reset has no effect, so
that both streams stand as they were but for the channel's own bytes, is a DESIGN CHOICE where R132 is silent, and so is that
a reset comes during a call (log 16). -/
def Obligations.ResetAbandonsTheOperation : Prop :=
  (∀ s : State, applyReset s = { s with phase := .idle }) ∧
  (∀ s : State, s.inv = true → s.phase ≠ .idle → s.phase ≠ .timedOut → s.env.slot.ending = .reset →
    ∃ t : State, step s = .next t ∧ t.phase = .idle ∧ t.regs = s.regs ∧ t.calls = s.calls ∧
      t.completions = s.completions ∧ t.inbox = s.inbox ∧ t.params = s.params ∧
      t.env.txSent ++ t.env.txPending = s.env.txSent ++ s.env.txPending ∧
      t.env.rx = s.env.rx ++ s.env.slot.arrivals)

/-! ### What holds across operations -/

/-- The parameters are fixed for the life of an instance: no step changes them (10_state.md R18, R23; that they are a field
of the state is log 1). -/
def Obligations.ParametersNeverChange : Prop :=
  ∀ s t : State, step s = .next t → t.params = s.params

/-- Nothing done is undone: the record of calls and the completions only grow, and a step presents at most one completion
(60_exceptions.md R116, R115; 10_state.md R14; the two lists are log 19). -/
def Obligations.RecordsOnlyGrow : Prop :=
  ∀ s t : State, step s = .next t →
    (∃ l, t.calls = s.calls ++ l) ∧ (t.completions = s.completions ∨ ∃ c, t.completions = s.completions ++ [c])

/-- In IDLE every operand and working register is dead: what an earlier operation left in them is seen by no operation.
Two idle states that differ in the registers alone give outcomes that agree on everything outside the registers
(10_state.md R10, R16, R23). -/
def Obligations.DeadRegistersAreNotSeen : Prop :=
  ∀ (i : Instr) (s : State) (g : Regs), s.phase = .idle →
    (nextOf (exec i { s with regs := g })).map State.outside = (nextOf (exec i s)).map State.outside

/-- One primitive call a tick, each with the effect its contract gives it on the channel (20_memory.md R35, R36, R39, R41,
R45). The model's own: the tick (DESIGN CHOICE, log 11); one slot of the channel's script a call (DESIGN CHOICE, log 8);
bytes that arrive during a `ChanAvail` are counted by it (DEDUCED, log 9); a call that has not returned is not recorded and
has no effect yet (DESIGN CHOICE, log 9), nor has one cut by a reset (DESIGN CHOICE, log 16): both move only the channel's
own bytes. -/
def Obligations.EachCallHasItsEffect : Prop :=
  ∀ s t : State, s.phase ≠ .idle → s.phase ≠ .timedOut → tick s = .next t →
    t.env.script = s.env.script.tail ∧ t.env.rest = s.env.rest ∧ t.inbox = s.inbox ∧
    (s.env.slot.ending = .returns →
      ∃ c, t.calls = s.calls ++ [c] ∧ CallEffect c s.env.slot.arrivals s t) ∧
    (s.env.slot.ending ≠ .returns → t.calls = s.calls ∧ t.completions = s.completions ∧ t.regs = s.regs ∧
      t.env.rx = s.env.rx ++ s.env.slot.arrivals ∧
      t.env.txSent ++ t.env.txPending = s.env.txSent ++ s.env.txPending)

/-- Every byte is accounted for, whatever the channel does: an operation hands over exactly the bytes of its `ChanWrite`
calls, after those handed over before, and the bytes it took by `ChanRead`, followed by what is left in the buffer, are
what was there followed by what arrived during its `n` ticks that stood in a call. The calls it made are those of the `n`
that returned: at most `n`, and exactly `n` when every one returned (20_memory.md R30, R35, R36, R45; the tick is log 11, a
slot of the script a tick log 8, a call that has not returned or is cut by a reset has no effect, logs 9 and 16). -/
def Obligations.BytesAreConserved : Prop :=
  ∀ (i : Instr) (s t : State), isOperation i = true → exec i s = .next t →
    ∃ (l : List Call) (n : Nat), t.calls = s.calls ++ l ∧ l.length = (slotsOf n s.env).countP Slot.answers ∧
      l.length ≤ n ∧ ((slotsOf n s.env).all Slot.answers = true → l.length = n) ∧
      t.env.txSent ++ t.env.txPending = s.env.txSent ++ s.env.txPending ++ writesOf l ∧
      readsOf l ++ t.env.rx = s.env.rx ++ arrivalsOf n s.env ∧
      t.env.script = s.env.script.drop n ∧ t.env.rest = s.env.rest

/-- Transmit and receive never overlap within an operation: its calls are a transmit part with no `ChanAvail` and no
`ChanRead`, then a receive part with no `ChanWrite` that begins with a flush (20_memory.md R40, R41). -/
def Obligations.HalfDuplex : Prop :=
  ∀ (i : Instr) (s t : State), exec i s = .next t →
    ∃ tx rx : List Call, t.calls = s.calls ++ tx ++ rx ∧ readsOf tx = [] ∧ availsOf tx = 0 ∧ writesOf rx = [] ∧
      (rx = [] ∨ rx.head? = some .flush)

/-- The record of calls and completions is a record only: an operation presents its result once, and no operation reads
what was presented or called before. From any idle state the outcome is that of the same state with an empty record, its
own record appended to the old one (10_state.md R10, R14; log 19). -/
def Obligations.RecordsAreNotRead : Prop :=
  ∀ (i : Instr) (s t : State), s.phase = .idle → exec i { s with calls := [], completions := [] } = .next t →
    exec i s = .next { t with calls := s.calls ++ t.calls, completions := s.completions ++ t.completions }

/-- The listen takes the oldest 8 bytes that arrived after its drain, whatever they are, a late echo included: it does not
look for the sync byte (20_memory.md R34; 42_transport_driver.md R98; 70_reset_and_hazards.md R135). Stated for a drain that
finds the buffer empty at its first test, whatever the line delivers afterwards. -/
def Obligations.OldestEightBytesAreTaken : Prop :=
  ∀ (s t : State) (raw : U64), s.phase = .idle → s.env.prompt = true → s.env.rx = [] →
    arrivalsOf 2 s.env = [] → exec (.awaitReply true) s = .next t →
    t.completions = s.completions ++ [⟨.awaitReply, .u64 raw, .ok⟩] →
    ∃ n, 8 ≤ (arrivalsOf n s.env).length ∧ raw = assemble ((arrivalsOf n s.env).take 8) ∧
      t.env.rx = (arrivalsOf n s.env).drop 8

/-! ### Further invariants of the step -/

/-- The transmit stream of the channel stays exactly the bytes of the recorded `ChanWrite` calls, in their order: no step
hands over a byte without a call, loses one or reorders two, whatever the channel does (20_memory.md R30, R35, R45 (a); the
record is log 19, the pending and the sent bytes log 18, a call not returned or cut by a reset logs 9 and 16). -/
def Obligations.StepKeepsTheTransmitStream : Prop :=
  ∀ s t : State, s.streamRecorded = true → step s = .next t → t.streamRecorded = true

/-- "Transmit is flushed to completion before any receive attempt begins": once the listen's flush has returned nothing is
pending for transmission, and every step keeps that to the end of the listen (20_memory.md R40, R41). -/
def Obligations.StepKeepsTransmitBeforeReceive : Prop :=
  ∀ s t : State, s.flushedToListen = true → step s = .next t → t.flushedToListen = true
end

