-- ==== Sys2Proof/Laws/State.lean ====
section
/-! SUPPORT. One lemma per field per update of the state, true by rfl, so that no proof unfolds a record update. -/

namespace Sys2Proof.Machine

variable (s : State)

@[simp] theorem present_params (op : Op) (v : Result) (st : Status) : (present op v st s).params = s.params := rfl
@[simp] theorem present_phase (op : Op) (v : Result) (st : Status) : (present op v st s).phase = s.phase := rfl
@[simp] theorem present_regs (op : Op) (v : Result) (st : Status) : (present op v st s).regs = s.regs := rfl
@[simp] theorem present_env (op : Op) (v : Result) (st : Status) : (present op v st s).env = s.env := rfl
@[simp] theorem present_inbox (op : Op) (v : Result) (st : Status) : (present op v st s).inbox = s.inbox := rfl
@[simp] theorem present_calls (op : Op) (v : Result) (st : Status) : (present op v st s).calls = s.calls := rfl
@[simp] theorem present_completions (op : Op) (v : Result) (st : Status) : (present op v st s).completions = s.completions ++ [{ op := op, value := v, status := st }] := rfl

@[simp] theorem complete_params (v : Result) (st : Status) : (complete v st s).params = s.params := rfl
@[simp] theorem complete_phase (v : Result) (st : Status) : (complete v st s).phase = .idle := rfl
@[simp] theorem complete_regs (v : Result) (st : Status) : (complete v st s).regs = s.regs := rfl
@[simp] theorem complete_env (v : Result) (st : Status) : (complete v st s).env = s.env := rfl
@[simp] theorem complete_inbox (v : Result) (st : Status) : (complete v st s).inbox = s.inbox := rfl
@[simp] theorem complete_calls (v : Result) (st : Status) : (complete v st s).calls = s.calls := rfl
@[simp] theorem complete_completions (v : Result) (st : Status) : (complete v st s).completions = s.completions ++ [{ op := s.regs.op, value := v, status := st }] := rfl

@[simp] theorem applyReset_params : (applyReset s).params = s.params := rfl
@[simp] theorem applyReset_phase : (applyReset s).phase = .idle := rfl
@[simp] theorem applyReset_regs : (applyReset s).regs = s.regs := rfl
@[simp] theorem applyReset_env : (applyReset s).env = s.env := rfl
@[simp] theorem applyReset_inbox : (applyReset s).inbox = s.inbox := rfl
@[simp] theorem applyReset_calls : (applyReset s).calls = s.calls := rfl
@[simp] theorem applyReset_completions : (applyReset s).completions = s.completions := rfl

@[simp] theorem enterSending_params (w : U64) (n : Nat) : (enterSending w n s).params = s.params := rfl
@[simp] theorem enterSending_phase (w : U64) (n : Nat) : (enterSending w n s).phase = .sending := rfl
@[simp] theorem enterSending_regs (w : U64) (n : Nat) : (enterSending w n s).regs = { s.regs with dgram := w, txn := n, txi := 0, point := .first } := rfl
@[simp] theorem enterSending_env (w : U64) (n : Nat) : (enterSending w n s).env = s.env := rfl
@[simp] theorem enterSending_inbox (w : U64) (n : Nat) : (enterSending w n s).inbox = s.inbox := rfl
@[simp] theorem enterSending_calls (w : U64) (n : Nat) : (enterSending w n s).calls = s.calls := rfl
@[simp] theorem enterSending_completions (w : U64) (n : Nat) : (enterSending w n s).completions = s.completions := rfl

@[simp] theorem enterDraining_params : (enterDraining s).params = s.params := rfl
@[simp] theorem enterDraining_phase : (enterDraining s).phase = .draining := rfl
@[simp] theorem enterDraining_regs : (enterDraining s).regs = { s.regs with point := .first } := rfl
@[simp] theorem enterDraining_env : (enterDraining s).env = s.env := rfl
@[simp] theorem enterDraining_inbox : (enterDraining s).inbox = s.inbox := rfl
@[simp] theorem enterDraining_calls : (enterDraining s).calls = s.calls := rfl
@[simp] theorem enterDraining_completions : (enterDraining s).completions = s.completions := rfl

@[simp] theorem enterWaiting_params : (enterWaiting s).params = s.params := rfl
@[simp] theorem enterWaiting_phase : (enterWaiting s).phase = .waiting := rfl
@[simp] theorem enterWaiting_regs : (enterWaiting s).regs = { s.regs with point := .first } := rfl
@[simp] theorem enterWaiting_env : (enterWaiting s).env = s.env := rfl
@[simp] theorem enterWaiting_inbox : (enterWaiting s).inbox = s.inbox := rfl
@[simp] theorem enterWaiting_calls : (enterWaiting s).calls = s.calls := rfl
@[simp] theorem enterWaiting_completions : (enterWaiting s).completions = s.completions := rfl

@[simp] theorem enterComplete_params : (enterComplete s).params = s.params := rfl
@[simp] theorem enterComplete_phase : (enterComplete s).phase = .complete := rfl
@[simp] theorem enterComplete_regs : (enterComplete s).regs = { s.regs with raw := 0, rxi := 0, point := .first } := rfl
@[simp] theorem enterComplete_env : (enterComplete s).env = s.env := rfl
@[simp] theorem enterComplete_inbox : (enterComplete s).inbox = s.inbox := rfl
@[simp] theorem enterComplete_calls : (enterComplete s).calls = s.calls := rfl
@[simp] theorem enterComplete_completions : (enterComplete s).completions = s.completions := rfl

@[simp] theorem enterTimedOut_params : (enterTimedOut s).params = s.params := rfl
@[simp] theorem enterTimedOut_phase : (enterTimedOut s).phase = .timedOut := rfl
@[simp] theorem enterTimedOut_regs : (enterTimedOut s).regs = { s.regs with point := .first } := rfl
@[simp] theorem enterTimedOut_env : (enterTimedOut s).env = s.env := rfl
@[simp] theorem enterTimedOut_inbox : (enterTimedOut s).inbox = s.inbox := rfl
@[simp] theorem enterTimedOut_calls : (enterTimedOut s).calls = s.calls := rfl
@[simp] theorem enterTimedOut_completions : (enterTimedOut s).completions = s.completions := rfl

@[simp] theorem setPoint_params (pt : Point) : (setPoint pt s).params = s.params := rfl
@[simp] theorem setPoint_phase (pt : Point) : (setPoint pt s).phase = s.phase := rfl
@[simp] theorem setPoint_regs (pt : Point) : (setPoint pt s).regs = { s.regs with point := pt } := rfl
@[simp] theorem setPoint_env (pt : Point) : (setPoint pt s).env = s.env := rfl
@[simp] theorem setPoint_inbox (pt : Point) : (setPoint pt s).inbox = s.inbox := rfl
@[simp] theorem setPoint_calls (pt : Point) : (setPoint pt s).calls = s.calls := rfl
@[simp] theorem setPoint_completions (pt : Point) : (setPoint pt s).completions = s.completions := rfl

@[simp] theorem elapse_params : (elapse s).params = s.params := rfl
@[simp] theorem elapse_phase : (elapse s).phase = s.phase := rfl
@[simp] theorem elapse_regs : (elapse s).regs = s.regs := rfl
@[simp] theorem elapse_env : (elapse s).env = s.env.elapse := rfl
@[simp] theorem elapse_inbox : (elapse s).inbox = s.inbox := rfl
@[simp] theorem elapse_calls : (elapse s).calls = s.calls := rfl
@[simp] theorem elapse_completions : (elapse s).completions = s.completions := rfl

@[simp] theorem record_params (c : Call) : (record c s).params = s.params := rfl
@[simp] theorem record_phase (c : Call) : (record c s).phase = s.phase := rfl
@[simp] theorem record_regs (c : Call) : (record c s).regs = s.regs := rfl
@[simp] theorem record_env (c : Call) : (record c s).env = s.env := rfl
@[simp] theorem record_inbox (c : Call) : (record c s).inbox = s.inbox := rfl
@[simp] theorem record_calls (c : Call) : (record c s).calls = s.calls ++ [c] := rfl
@[simp] theorem record_completions (c : Call) : (record c s).completions = s.completions := rfl

@[simp] theorem chanFlush_params : (chanFlush s).params = s.params := rfl
@[simp] theorem chanFlush_phase : (chanFlush s).phase = s.phase := rfl
@[simp] theorem chanFlush_regs : (chanFlush s).regs = s.regs := rfl
@[simp] theorem chanFlush_env : (chanFlush s).env = { s.env with txSent := s.env.txSent ++ s.env.txPending, txPending := [] } := rfl
@[simp] theorem chanFlush_inbox : (chanFlush s).inbox = s.inbox := rfl
@[simp] theorem chanFlush_calls : (chanFlush s).calls = s.calls ++ [.flush] := rfl
@[simp] theorem chanFlush_completions : (chanFlush s).completions = s.completions := rfl

@[simp] theorem chanWrite_params (b : U8) : (chanWrite b s).params = s.params := rfl
@[simp] theorem chanWrite_phase (b : U8) : (chanWrite b s).phase = s.phase := rfl
@[simp] theorem chanWrite_regs (b : U8) : (chanWrite b s).regs = s.regs := rfl
@[simp] theorem chanWrite_env (b : U8) : (chanWrite b s).env = { s.env with txPending := s.env.txPending ++ [b] } := rfl
@[simp] theorem chanWrite_inbox (b : U8) : (chanWrite b s).inbox = s.inbox := rfl
@[simp] theorem chanWrite_calls (b : U8) : (chanWrite b s).calls = s.calls ++ [.write b] := rfl
@[simp] theorem chanWrite_completions (b : U8) : (chanWrite b s).completions = s.completions := rfl

@[simp] theorem chanAvail_params : (chanAvail s).params = s.params := rfl
@[simp] theorem chanAvail_phase : (chanAvail s).phase = s.phase := rfl
@[simp] theorem chanAvail_regs : (chanAvail s).regs = s.regs := rfl
@[simp] theorem chanAvail_env : (chanAvail s).env = s.env := rfl
@[simp] theorem chanAvail_inbox : (chanAvail s).inbox = s.inbox := rfl
@[simp] theorem chanAvail_calls : (chanAvail s).calls = s.calls ++ [.avail s.env.rx.length] := rfl
@[simp] theorem chanAvail_completions : (chanAvail s).completions = s.completions := rfl

@[simp] theorem chanDelay_params (us : Nat) : (chanDelay us s).params = s.params := rfl
@[simp] theorem chanDelay_phase (us : Nat) : (chanDelay us s).phase = s.phase := rfl
@[simp] theorem chanDelay_regs (us : Nat) : (chanDelay us s).regs = s.regs := rfl
@[simp] theorem chanDelay_env (us : Nat) : (chanDelay us s).env = s.env := rfl
@[simp] theorem chanDelay_inbox (us : Nat) : (chanDelay us s).inbox = s.inbox := rfl
@[simp] theorem chanDelay_calls (us : Nat) : (chanDelay us s).calls = s.calls ++ [.delay us] := rfl
@[simp] theorem chanDelay_completions (us : Nat) : (chanDelay us s).completions = s.completions := rfl

@[simp] theorem receiveBytes_params (bs : List U8) : (receiveBytes bs s).params = s.params := rfl
@[simp] theorem receiveBytes_phase (bs : List U8) : (receiveBytes bs s).phase = s.phase := rfl
@[simp] theorem receiveBytes_regs (bs : List U8) : (receiveBytes bs s).regs = s.regs := rfl
@[simp] theorem receiveBytes_env (bs : List U8) : (receiveBytes bs s).env = { s.env with rx := s.env.rx ++ bs } := rfl
@[simp] theorem receiveBytes_inbox (bs : List U8) : (receiveBytes bs s).inbox = s.inbox := rfl
@[simp] theorem receiveBytes_calls (bs : List U8) : (receiveBytes bs s).calls = s.calls := rfl
@[simp] theorem receiveBytes_completions (bs : List U8) : (receiveBytes bs s).completions = s.completions := rfl

@[simp] theorem pushFrame_params (f : Frame) : (pushFrame f s).params = s.params := rfl
@[simp] theorem pushFrame_phase (f : Frame) : (pushFrame f s).phase = .idle := rfl
@[simp] theorem pushFrame_regs (f : Frame) : (pushFrame f s).regs = s.regs := rfl
@[simp] theorem pushFrame_env (f : Frame) : (pushFrame f s).env = s.env := rfl
@[simp] theorem pushFrame_inbox (f : Frame) : (pushFrame f s).inbox = f :: s.inbox := rfl
@[simp] theorem pushFrame_calls (f : Frame) : (pushFrame f s).calls = s.calls := rfl
@[simp] theorem pushFrame_completions (f : Frame) : (pushFrame f s).completions = s.completions := rfl

@[simp] theorem captureWrite_params (c : Bool) (a r : U8) (v : U32) : (captureWrite c a r v s).params = s.params := rfl
@[simp] theorem captureWrite_phase (c : Bool) (a r : U8) (v : U32) : (captureWrite c a r v s).phase = s.phase := rfl
@[simp] theorem captureWrite_regs (c : Bool) (a r : U8) (v : U32) : (captureWrite c a r v s).regs = { s.regs with
      op := .write, chanPresent := c, addr := a, reg := r, value := v } := rfl
@[simp] theorem captureWrite_env (c : Bool) (a r : U8) (v : U32) : (captureWrite c a r v s).env = s.env := rfl
@[simp] theorem captureWrite_inbox (c : Bool) (a r : U8) (v : U32) : (captureWrite c a r v s).inbox = s.inbox := rfl
@[simp] theorem captureWrite_calls (c : Bool) (a r : U8) (v : U32) : (captureWrite c a r v s).calls = s.calls := rfl
@[simp] theorem captureWrite_completions (c : Bool) (a r : U8) (v : U32) : (captureWrite c a r v s).completions = s.completions := rfl

@[simp] theorem captureRequest_params (c : Bool) (a r : U8) : (captureRequest c a r s).params = s.params := rfl
@[simp] theorem captureRequest_phase (c : Bool) (a r : U8) : (captureRequest c a r s).phase = s.phase := rfl
@[simp] theorem captureRequest_regs (c : Bool) (a r : U8) : (captureRequest c a r s).regs = { s.regs with op := .request, chanPresent := c, addr := a, reg := r } := rfl
@[simp] theorem captureRequest_env (c : Bool) (a r : U8) : (captureRequest c a r s).env = s.env := rfl
@[simp] theorem captureRequest_inbox (c : Bool) (a r : U8) : (captureRequest c a r s).inbox = s.inbox := rfl
@[simp] theorem captureRequest_calls (c : Bool) (a r : U8) : (captureRequest c a r s).calls = s.calls := rfl
@[simp] theorem captureRequest_completions (c : Bool) (a r : U8) : (captureRequest c a r s).completions = s.completions := rfl

@[simp] theorem captureAwait_params (c : Bool) : (captureAwait c s).params = s.params := rfl
@[simp] theorem captureAwait_phase (c : Bool) : (captureAwait c s).phase = s.phase := rfl
@[simp] theorem captureAwait_regs (c : Bool) : (captureAwait c s).regs = { s.regs with op := .awaitReply, chanPresent := c } := rfl
@[simp] theorem captureAwait_env (c : Bool) : (captureAwait c s).env = s.env := rfl
@[simp] theorem captureAwait_inbox (c : Bool) : (captureAwait c s).inbox = s.inbox := rfl
@[simp] theorem captureAwait_calls (c : Bool) : (captureAwait c s).calls = s.calls := rfl
@[simp] theorem captureAwait_completions (c : Bool) : (captureAwait c s).completions = s.completions := rfl

@[simp] theorem captureRead_params (c : Bool) (a r : U8) : (captureRead c a r s).params = s.params := rfl
@[simp] theorem captureRead_phase (c : Bool) (a r : U8) : (captureRead c a r s).phase = s.phase := rfl
@[simp] theorem captureRead_regs (c : Bool) (a r : U8) : (captureRead c a r s).regs = { s.regs with op := .read, chanPresent := c, addr := a, reg := r } := rfl
@[simp] theorem captureRead_env (c : Bool) (a r : U8) : (captureRead c a r s).env = s.env := rfl
@[simp] theorem captureRead_inbox (c : Bool) (a r : U8) : (captureRead c a r s).inbox = s.inbox := rfl
@[simp] theorem captureRead_calls (c : Bool) (a r : U8) : (captureRead c a r s).calls = s.calls := rfl
@[simp] theorem captureRead_completions (c : Bool) (a r : U8) : (captureRead c a r s).completions = s.completions := rfl

variable (e : Env)

@[simp] theorem Env.elapse_rx : e.elapse.rx = e.rx ++ e.slot.arrivals := rfl
@[simp] theorem Env.elapse_txPending : e.elapse.txPending = e.txPending.drop e.slot.transmits := rfl
@[simp] theorem Env.elapse_txSent : e.elapse.txSent = e.txSent ++ e.txPending.take e.slot.transmits := rfl
@[simp] theorem Env.elapse_script : e.elapse.script = e.script.tail := rfl
@[simp] theorem Env.elapse_rest : e.elapse.rest = e.rest := rfl

end Sys2Proof.Machine
end

