-- ==== Sys2Proof/Laws/Ops.lean ====
section
/-! SUPPORT. What the shared operations can do, said once each: acceptance, one primitive call, the run of an operation,
the channel's slots, the record of calls. -/

namespace Sys2Proof.Machine

/-! ### The outcomes -/

@[simp] theorem nextOf_next (s : State) : nextOf (.next s) = some s := rfl

/-! ### Acceptance -/

theorem busy_eq_false {s : State} : s.busy = false ↔ s.phase = .idle := by simp [State.busy]

theorem busy_eq_true {s : State} : s.busy = true ↔ s.phase ≠ .idle := by simp [State.busy]

/-- An idle block accepts. -/
theorem accept_idle {op : Op} {s : State} {k : State → StepResult} (h : s.phase = .idle) : accept op s k = k s := by
  simp [accept, busy_eq_false.mpr h]

/-- A BUSY block does not. -/
theorem accept_busy {op : Op} {s : State} {k : State → StepResult} (h : s.phase ≠ .idle) :
    accept op s k = .refused (.busy op) := by
  simp [accept, busy_eq_true.mpr h]

/-- A pure operation on an idle block presents its completion. -/
theorem completePure_idle {op : Op} {v : Result} {st : Status} {s : State} (h : s.phase = .idle) :
    completePure op v st s = .next (present op v st s) := accept_idle h

/-! ### One primitive call -/

/-- Everything one primitive call can do: it returned and the block went on; it has not returned; the block was reset. -/
theorem call_cases (s : State) (k : State → StepResult) :
    (s.env.slot.ending = .returns ∧ call s k = k (elapse s)) ∨
    (s.env.slot.ending = .pending ∧ call s k = .next (elapse s)) ∨
    (s.env.slot.ending = .reset ∧ call s k = .next (applyReset (elapse s))) := by
  unfold call
  cases s.env.slot.ending <;> simp

theorem call_returns {s : State} {k : State → StepResult} (h : s.env.slot.ending = .returns) :
    call s k = k (elapse s) := by
  simp [call, h]

theorem call_pending {s : State} {k : State → StepResult} (h : s.env.slot.ending = .pending) :
    call s k = .next (elapse s) := by
  simp [call, h]

theorem call_reset {s : State} {k : State → StepResult} (h : s.env.slot.ending = .reset) :
    call s k = .next (applyReset (elapse s)) := by
  simp [call, h]

theorem chanRead_nil {s : State} {k : U8 → State → StepResult} (h : s.env.rx = []) :
    chanRead s k = .fault .readOnEmptyBuffer := by
  simp [chanRead, h]

/-- A read of a buffer that holds a byte is one primitive call, and gives the oldest byte. -/
theorem chanRead_cons {s : State} {k : U8 → State → StepResult} {b : U8} {l : List U8} (h : s.env.rx = b :: l) :
    chanRead s k = call s fun s =>
      k b (record (.read b) { s with env := { s.env with rx := s.env.rx.tail } }) := by
  simp [chanRead, h]

/-- A read faults only on an empty buffer, whatever follows it, if what follows never faults. -/
theorem chanRead_ne_fault {s : State} {k : U8 → State → StepResult} {f : Fault} (h : s.env.rx ≠ [])
    (hk : ∀ b t, k b t ≠ .fault f) : chanRead s k ≠ .fault f := by
  cases hr : s.env.rx with
  | nil => exact absurd hr h
  | cons b l =>
    rw [chanRead_cons hr]
    rcases call_cases s _ with ⟨-, e⟩ | ⟨-, e⟩ | ⟨-, e⟩ <;> rw [e]
    · exact hk _ _
    · nofun
    · nofun

/-- The transmit stream is not touched by time: what is pending only becomes what is sent. -/
theorem Env.elapse_stream (e : Env) : e.elapse.txSent ++ e.elapse.txPending = e.txSent ++ e.txPending := by
  simp

/-! ### The coming slots -/

@[simp] theorem slotsOf_zero (e : Env) : slotsOf 0 e = [] := rfl

theorem slotsOf_succ (n : Nat) (e : Env) :
    slotsOf (n + 1) e = e.slot :: slotsOf n { e with script := e.script.tail } := rfl

/-- The coming slots depend on the script and the rest alone. -/
theorem slotsOf_congr (n : Nat) {e e' : Env} (h : e.script = e'.script) (hr : e.rest = e'.rest) :
    slotsOf n e = slotsOf n e' := by
  induction n generalizing e e' with
  | zero => rfl
  | succ n ih =>
    have hslot : e.slot = e'.slot := by simp [Env.slot, h, hr]
    rw [slotsOf_succ, slotsOf_succ, hslot]
    exact congrArg _ (ih (congrArg List.tail h) hr)

theorem slotsOf_elapse (n : Nat) (e : Env) : slotsOf (n + 1) e = e.slot :: slotsOf n e.elapse := by
  rw [slotsOf_succ, slotsOf_congr n (e := { e with script := e.script.tail }) (e' := e.elapse) rfl rfl]

@[simp] theorem arrivalsOf_zero (e : Env) : arrivalsOf 0 e = [] := rfl

theorem arrivalsOf_succ (n : Nat) (e : Env) : arrivalsOf (n + 1) e = e.slot.arrivals ++ arrivalsOf n e.elapse := by
  simp [arrivalsOf, slotsOf_elapse]

@[simp] theorem slotsOf_length (n : Nat) (e : Env) : (slotsOf n e).length = n := by
  induction n generalizing e with
  | zero => rfl
  | succ n ih => simp [slotsOf_succ, ih]

/-- The coming slots in two parts: those of `m` calls, then those of `n` more. -/
theorem slotsOf_add (m n : Nat) (e : Env) :
    slotsOf (m + n) e = slotsOf m e ++ slotsOf n { e with script := e.script.drop m } := by
  induction m generalizing e with
  | zero => simp
  | succ m ih => rw [Nat.add_right_comm, slotsOf_succ, slotsOf_succ, ih]; simp

theorem arrivalsOf_add (m n : Nat) (e : Env) :
    arrivalsOf (m + n) e = arrivalsOf m e ++ arrivalsOf n { e with script := e.script.drop m } := by
  simp [arrivalsOf, slotsOf_add]

/-- Later calls only add arrivals. -/
theorem arrivalsOf_length_mono {m n : Nat} (h : m ≤ n) (e : Env) :
    (arrivalsOf m e).length ≤ (arrivalsOf n e).length := by
  obtain ⟨k, rfl⟩ := Nat.exists_eq_add_of_le h
  simp [arrivalsOf_add]

/-- A drain takes one byte a round, so it ends as soon as it could have taken all that came: the premise `DrainEnds` may
be shown with `≤`. -/
theorem drainEnds_of_le {sent k : Nat} {e : Env}
    (h : e.rx.length + (arrivalsOf (sent + 2 * k + 2) e).length ≤ k) : DrainEnds sent e := by
  induction k with
  | zero => exact ⟨0, by omega⟩
  | succ k ih =>
    by_cases hk : e.rx.length + (arrivalsOf (sent + 2 * k + 2) e).length ≤ k
    · exact ih hk
    · have := arrivalsOf_length_mono (show sent + 2 * k + 2 ≤ sent + 2 * (k + 1) + 2 by omega) e
      exact ⟨k + 1, by omega⟩

/-- When nothing arrives after the script, what arrives in all is what the script holds. -/
theorem arrivalsOf_length_le (n : Nat) {e : Env} (h : e.rest.arrivals = []) :
    (arrivalsOf n e).length ≤ scriptArrivals e.script := by
  induction n generalizing e with
  | zero => simp
  | succ n ih =>
    have := ih (e := e.elapse) h
    cases hs : e.script with
    | nil => simp_all [arrivalsOf_succ, Env.slot, scriptArrivals]
    | cons x xs => simp_all [arrivalsOf_succ, Env.slot, scriptArrivals]

/-- On a line that falls silent after its script every drain ends. -/
theorem drainEnds_of_quiet (sent : Nat) {e : Env} (h : e.rest.arrivals = []) : DrainEnds sent e :=
  drainEnds_of_le (k := e.rx.length + scriptArrivals e.script)
    (Nat.add_le_add_left (arrivalsOf_length_le _ h) _)

/-- On a prompt channel the next call returns, and the channel stays prompt. -/
theorem Env.prompt_slot {e : Env} (h : e.prompt = true) : e.slot.ending = .returns := by
  cases hs : e.script with
  | nil => simp [Env.prompt, Slot.answers, hs] at h; simp [Env.slot, hs, h]
  | cons x xs => simp [Env.prompt, Slot.answers, hs] at h; simp [Env.slot, hs, h]

theorem Env.prompt_elapse {e : Env} (h : e.prompt = true) : e.elapse.prompt = true := by
  cases hs : e.script <;> simp_all [Env.prompt]

/-! ### The record of calls -/

theorem writesOf_append (l m : List Call) : writesOf (l ++ m) = writesOf l ++ writesOf m := by
  induction l with
  | nil => rfl
  | cons c l ih => cases c <;> simp [writesOf, ih]

theorem readsOf_append (l m : List Call) : readsOf (l ++ m) = readsOf l ++ readsOf m := by
  induction l with
  | nil => rfl
  | cons c l ih => cases c <;> simp [readsOf, ih]

theorem availsOf_append (l m : List Call) : availsOf (l ++ m) = availsOf l + availsOf m := by
  induction l with
  | nil => simp [availsOf]
  | cons c l ih => cases c <;> (simp [availsOf, ih]; try omega)

/-! ### The run of an operation -/

theorem runOperation_idle (n : Nat) {s : State} (h : s.phase = .idle) : runOperation n s = .next s := by
  cases n <;> simp [runOperation, State.busy, h]

theorem runOperation_next {n : Nat} {s t : State} (hb : s.phase ≠ .idle) (ht : tick s = .next t) :
    runOperation (n + 1) s = runOperation n t := by
  simp [runOperation, busy_eq_true.mpr hb, ht]

/-- The induction of a run, packaged once: what every tick of a BUSY block keeps holds of the state the run ends in. -/
theorem runOperation_induction {P : State → Prop} (hstep : ∀ s t, s.phase ≠ .idle → P s → tick s = .next t → P t)
    {n : Nat} {s t : State} (h0 : P s) (h : runOperation n s = .next t) : P t := by
  induction n generalizing s with
  | zero => cases h; exact h0
  | succ n ih =>
    by_cases hb : s.phase = .idle
    · rw [runOperation_idle _ hb] at h; cases h; exact h0
    · cases ht : tick s with
      | next s' => rw [runOperation_next hb ht] at h; exact ih (hstep s s' hb h0 ht) h
      | fault f => simp [runOperation, busy_eq_true.mpr hb, ht] at h
      | refused r => simp [runOperation, busy_eq_true.mpr hb, ht] at h

/-- A run answers a next state when every tick of a BUSY block that meets `P` does, and keeps `P`. -/
theorem runOperation_progress {P : State → Prop}
    (hstep : ∀ s, s.phase ≠ .idle → P s → ∃ t, tick s = .next t ∧ P t) (n : Nat) {s : State} (h0 : P s) :
    ∃ t, runOperation n s = .next t ∧ P t := by
  induction n generalizing s with
  | zero => exact ⟨s, rfl, h0⟩
  | succ n ih =>
    by_cases hb : s.phase = .idle
    · exact ⟨s, runOperation_idle _ hb, h0⟩
    · obtain ⟨t, ht, hp⟩ := hstep s hb h0
      rw [runOperation_next hb ht]
      exact ih hp

/-- Two runs one after the other are one run. -/
theorem runOperation_add {m n : Nat} {s t : State} (h : runOperation m s = .next t) :
    runOperation (m + n) s = runOperation n t := by
  induction m generalizing s with
  | zero => cases h; simp
  | succ m ih =>
    by_cases hb : s.phase = .idle
    · rw [runOperation_idle _ hb] at h
      cases h
      rw [runOperation_idle _ hb, runOperation_idle _ hb]
    · cases ht : tick s with
      | next s' =>
        rw [runOperation_next hb ht] at h
        rw [Nat.add_right_comm, runOperation_next hb ht]
        exact ih h
      | fault f => simp [runOperation, busy_eq_true.mpr hb, ht] at h
      | refused r => simp [runOperation, busy_eq_true.mpr hb, ht] at h

/-! ### The ticks, by phase -/

theorem tick_sending {s : State} (h : s.phase = .sending) : tick s = tickSending s := by simp [tick, h]
theorem tick_draining {s : State} (h : s.phase = .draining) : tick s = tickDraining s := by simp [tick, h]
theorem tick_waiting {s : State} (h : s.phase = .waiting) : tick s = tickWaiting s := by simp [tick, h]
theorem tick_complete {s : State} (h : s.phase = .complete) : tick s = tickComplete s := by simp [tick, h]
theorem tick_timedOut {s : State} (h : s.phase = .timedOut) : tick s = tickTimedOut s := by simp [tick, h]

/-- A BUSY block's step is one tick. -/
theorem step_busy {s : State} (h : s.phase ≠ .idle) : step s = tick s := by simp [step, busy_eq_true.mpr h]

/-- An idle block's step runs the oldest item presented. -/
theorem step_fetch {s : State} {f : Frame} {rest : List Frame} (h : s.phase = .idle) (hi : s.inbox = f :: rest) :
    step s = runFrame f { s with inbox := rest } := by
  simp [step, busy_eq_false.mpr h, fetch, hi]

/-- The listen's end presents one completion and leaves the block idle. -/
theorem finishListening_spec (st : Status) (s : State) :
    ∃ v st', finishListening st s = complete v st' s := by
  unfold finishListening
  split
  · exact ⟨_, _, rfl⟩
  · exact ⟨_, _, rfl⟩

/-- The end of sending: a `read` goes on to listen, the others complete. -/
theorem finishSending_spec (s : State) :
    (s.regs.op = .read ∧ finishSending s = enterDraining s) ∨
    (s.regs.op ≠ .read ∧ finishSending s = complete .none .ok s) := by
  unfold finishSending
  split
  · exact .inl ⟨‹_›, rfl⟩
  · exact .inr ⟨‹_›, rfl⟩

end Sys2Proof.Machine
end

