-- ==== Sys2Proof/Laws/PerInstr.lean ====
section
/-! SUPPORT. Families of statements about every constructor of `Instr` as syntax, one lemma per constructor. -/

/-- Which interface an instruction is presented at: an operation as a command with its own code (spec/30_encoding.md R58),
a datagram as 4 or 8 bytes on the wire (R50). -/
def Sys2Proof.Laws.Presentation.Statement (i : Sys2Proof.Instr) : Prop :=
  match Sys2Proof.encode i with
  | .command code _ => (Sys2Proof.Machine.opOf i).map Sys2Proof.Op.code = some code
  | .wire _ bytes => Sys2Proof.Machine.opOf i = none ∧ (bytes.length = 4 ∨ bytes.length = 8)

namespace Sys2Proof.Laws.Presentation

theorem byteCRC (b s : U8) : Statement (.byteCRC b s) := rfl
theorem wordCRC (v : U32) (s : U8) : Statement (.wordCRC v s) := rfl
theorem startSeed (a : U8) : Statement (.startSeed a) := rfl
theorem reverseBytes (x : U32) : Statement (.reverseBytes x) := rfl
theorem encodeWrite (a r : U8) (v : U32) : Statement (.encodeWrite a r v) := rfl
theorem encodeRequest (a r : U8) : Statement (.encodeRequest a r) := rfl
theorem decodeResponse (w : U64) : Statement (.decodeResponse w) := rfl
theorem write (c : Bool) (a r : U8) (v : U32) : Statement (.write c a r v) := rfl
theorem request (c : Bool) (a r : U8) : Statement (.request c a r) := rfl
theorem awaitReply (c : Bool) : Statement (.awaitReply c) := rfl
theorem read (c : Bool) (a r : U8) : Statement (.read c a r) := rfl
theorem writeDatagram (y a f : U8) (d : U32) (c : U8) : Statement (.writeDatagram y a f d c) := ⟨rfl, .inr rfl⟩
theorem requestDatagram (y a f c : U8) : Statement (.requestDatagram y a f c) := ⟨rfl, .inl rfl⟩
theorem responseDatagram (y a f : U8) (d : U32) (c : U8) : Statement (.responseDatagram y a f d c) := ⟨rfl, .inr rfl⟩

end Sys2Proof.Laws.Presentation
end

