-- ==== Sys2Proof/Laws/Ticks.lean ====
section
/-! SUPPORT. What one tick of a BUSY block can do, said once (spec/42_transport_driver.md R100): every later fact about
the phase machine is a case analysis over `tick_cases`. -/

namespace Sys2Proof.Machine

/-- The oldest received byte has been taken and the read recorded (the channel's part of `ChanRead`). -/
def readDone (b : U8) (s : State) : State :=
  record (.read b) { s with env := { s.env with rx := s.env.rx.tail } }

/-- What the block does when the primitive call in progress returns; `s` is the state after the call's time. -/
inductive Returned : State → State → Prop where
  | sendFlush {s} (hp : s.phase = .sending) (hq : s.regs.point = .first) :
      Returned s (setPoint .act (chanFlush s))
  | sendByte {s} (hp : s.phase = .sending) (hq : s.regs.point ≠ .first) : Returned s (sendByte s)
  | listenFlush {s} (hp : s.phase = .draining) (hq : s.regs.point = .first) :
      Returned s (setPoint .test (chanFlush s))
  | drainTest {s} (hp : s.phase = .draining) (hq : s.regs.point = .test) : Returned s (drainTest s)
  | drainByte {s} (b : U8) (hp : s.phase = .draining) (hq : s.regs.point = .act)
      (hb : s.env.rx.head? = some b) : Returned s (setPoint .test (readDone b s))
  | startPoll {s} (hp : s.phase = .waiting) (hq : s.regs.point = .first) : Returned s (startPoll s)
  | pollTest {s} (hp : s.phase = .waiting) (hq : s.regs.point = .test) : Returned s (pollTest s)
  | pollAgain {s} (hp : s.phase = .waiting) (hq : s.regs.point = .act) : Returned s (pollAgain s)
  | takeByte {s} (b : U8) (hp : s.phase = .complete) (hb : s.env.rx.head? = some b) :
      Returned s (takeByte b (readDone b s))

theorem call_next {s t : State} {f : State → State} (h : call s (fun s => .next (f s)) = .next t) :
    (s.env.slot.ending = .pending ∧ t = elapse s) ∨ (s.env.slot.ending = .reset ∧ t = applyReset (elapse s)) ∨
    (s.env.slot.ending = .returns ∧ t = f (elapse s)) := by
  rcases call_cases s (fun s => .next (f s)) with ⟨e, h'⟩ | ⟨e, h'⟩ | ⟨e, h'⟩ <;> rw [h'] at h <;> cases h
  · exact .inr (.inr ⟨e, rfl⟩)
  · exact .inl ⟨e, rfl⟩
  · exact .inr (.inl ⟨e, rfl⟩)

theorem chanRead_next {s t : State} {f : U8 → State → State} (h : chanRead s (fun b s => .next (f b s)) = .next t) :
    ∃ b l, s.env.rx = b :: l ∧
      ((s.env.slot.ending = .pending ∧ t = elapse s) ∨ (s.env.slot.ending = .reset ∧ t = applyReset (elapse s)) ∨
      (s.env.slot.ending = .returns ∧ t = f b (readDone b (elapse s)))) := by
  cases hr : s.env.rx with
  | nil => rw [chanRead_nil hr] at h; cases h
  | cons b l =>
    rw [chanRead_cons hr] at h
    exact ⟨b, l, rfl, call_next (f := fun s => f b (readDone b s)) h⟩

/-- Everything a tick of a BUSY block can do, when it answers a next state. -/
theorem tick_cases {s t : State} (hb : s.phase ≠ .idle) (h : tick s = .next t) :
    (s.phase = .timedOut ∧ t = expire s) ∨
    (s.phase ≠ .timedOut ∧
      ((s.env.slot.ending = .pending ∧ t = elapse s) ∨ (s.env.slot.ending = .reset ∧ t = applyReset (elapse s)) ∨
       (s.env.slot.ending = .returns ∧ Returned (elapse s) t))) := by
  cases hp : s.phase with
  | idle => exact absurd hp hb
  | timedOut =>
    rw [tick_timedOut hp] at h
    cases h
    exact .inl ⟨rfl, rfl⟩
  | sending =>
    rw [tick_sending hp] at h
    refine .inr ⟨nofun, ?_⟩
    unfold tickSending at h
    split at h
    · rcases call_next h with h | h | ⟨e, rfl⟩
      · exact .inl h
      · exact .inr (.inl h)
      · exact .inr (.inr ⟨e, .sendFlush hp ‹_›⟩)
    · rcases call_next h with h | h | ⟨e, rfl⟩
      · exact .inl h
      · exact .inr (.inl h)
      · exact .inr (.inr ⟨e, .sendByte hp (by assumption)⟩)
  | draining =>
    rw [tick_draining hp] at h
    refine .inr ⟨nofun, ?_⟩
    unfold tickDraining at h
    split at h
    · rcases call_next h with h | h | ⟨e, rfl⟩
      · exact .inl h
      · exact .inr (.inl h)
      · exact .inr (.inr ⟨e, .listenFlush hp ‹_›⟩)
    · rcases call_next h with h | h | ⟨e, rfl⟩
      · exact .inl h
      · exact .inr (.inl h)
      · exact .inr (.inr ⟨e, .drainTest hp ‹_›⟩)
    · obtain ⟨b, l, hr, h | h | ⟨e, rfl⟩⟩ := chanRead_next h
      · exact .inl h
      · exact .inr (.inl h)
      · exact .inr (.inr ⟨e, .drainByte b hp ‹_› (by simp [hr])⟩)
  | waiting =>
    rw [tick_waiting hp] at h
    refine .inr ⟨nofun, ?_⟩
    unfold tickWaiting at h
    split at h
    · rcases call_next h with h | h | ⟨e, rfl⟩
      · exact .inl h
      · exact .inr (.inl h)
      · exact .inr (.inr ⟨e, .startPoll hp ‹_›⟩)
    · rcases call_next h with h | h | ⟨e, rfl⟩
      · exact .inl h
      · exact .inr (.inl h)
      · exact .inr (.inr ⟨e, .pollTest hp ‹_›⟩)
    · rcases call_next h with h | h | ⟨e, rfl⟩
      · exact .inl h
      · exact .inr (.inl h)
      · exact .inr (.inr ⟨e, .pollAgain hp ‹_›⟩)
  | complete =>
    rw [tick_complete hp] at h
    refine .inr ⟨nofun, ?_⟩
    obtain ⟨b, l, hr, h | h | ⟨e, rfl⟩⟩ := chanRead_next h
    · exact .inl h
    · exact .inr (.inl h)
    · exact .inr (.inr ⟨e, .takeByte b hp (by simp [hr])⟩)

/-- A tick never refuses. -/
theorem tick_ne_refused (s : State) (r : Refusal) : tick s ≠ .refused r := by
  have hc : ∀ (s : State) (f : State → State), call s (fun s => .next (f s)) ≠ .refused r := by
    intro s f h
    rcases call_cases s (fun s => .next (f s)) with ⟨-, e⟩ | ⟨-, e⟩ | ⟨-, e⟩ <;> rw [e] at h <;> cases h
  have hr : ∀ (s : State) (f : U8 → State → State), chanRead s (fun b s => .next (f b s)) ≠ .refused r := by
    intro s f h
    cases hx : s.env.rx with
    | nil => rw [chanRead_nil hx] at h; cases h
    | cons b l => rw [chanRead_cons hx] at h; exact hc s (fun s => f b (readDone b s)) h
  cases hp : s.phase with
  | idle => simp [tick, hp]
  | sending => rw [tick_sending hp]; unfold tickSending; split <;> exact hc _ _
  | draining => rw [tick_draining hp]; unfold tickDraining; split <;> first | exact hc _ _ | exact hr _ _
  | waiting => rw [tick_waiting hp]; unfold tickWaiting; split <;> exact hc _ _
  | complete => rw [tick_complete hp]; exact hr _ _
  | timedOut => rw [tick_timedOut hp]; exact nofun

end Sys2Proof.Machine
end

