-- ==== Sys2Proof/Tests/Slice0.lean ====
section
/-! SUPPORT. Small tests: the well-formedness smoke, words written out from the spec's encodings, one step per
instruction on values of spec/95_test_vectors.md, and a witness for the hypotheses of each obligation. -/

namespace Sys2Proof.Tests

open Sys2Proof Sys2Proof.Machine

/-! ### Small states -/

/-- The default parameters with a budget and an echo delay of the test's own. -/
def params (budget : Nat) : Params := { Params.default with replyBudget := budget, echoDelayUs := 87 }

/-- A slot whose call returns and during which these bytes arrive. -/
def slot (bytes : List U8) : Slot := { arrivals := bytes, transmits := 0, ending := .returns }

/-- An idle block with these received bytes and this script, then a quiet channel. -/
def idle (budget : Nat) (rx : List U8) (script : List Slot) : State :=
  { State.reset with
    params := params budget
    env := { Env.reset with rx := rx, script := script } }

/-- The completions after an instruction. -/
def done (i : Instr) (s : State) : Option (List Completion) := (nextOf (exec i s)).map (·.completions)

/-- The calls after an instruction. -/
def made (i : Instr) (s : State) : Option (List Call) := (nextOf (exec i s)).map (·.calls)

/-- A block in the middle of an operation. -/
def busyAt (ph : Phase) (op : Op) (pt : Point) (s : State) : State :=
  { s with phase := ph, regs := { s.regs with op := op, chanPresent := true, point := pt, cnt := 1 } }

/-- A block in SENDING with the request of `read(ch, 0x00, 0x06)`. -/
def sendingRead (s : State) : State :=
  enterSending ((encodeRequest s.params 0x00 0x06).setWidth 64) 4 (captureRead true 0x00 0x06 s)

/-! ### The well-formedness smoke (30_encoding.md R51, R52) -/

theorem test_wf_write_datagram : Instr.wf (params 3) (.writeDatagram 0x05 0x00 0x90 0x0A1F0600 0x9E) = true := by decide
theorem test_wf_refuses_write_bad_sync : Instr.wf (params 3) (.writeDatagram 0x06 0x00 0x90 0x0A1F0600 0x9E) = false := by
  decide
theorem test_wf_refuses_write_without_flag : Instr.wf (params 3) (.writeDatagram 0x05 0x00 0x10 0x0A1F0600 0x9E) = false := by
  decide
theorem test_wf_refuses_request_bad_sync : Instr.wf (params 3) (.requestDatagram 0x04 0x00 0x06 0x6F) = false := by decide
theorem test_wf_refuses_request_with_flag : Instr.wf (params 3) (.requestDatagram 0x05 0x00 0x86 0x6F) = false := by
  decide

/-! ### Decoding: codes of 30_encoding.md R58 written as the table's bit strings, datagrams of 95_test_vectors.md -/

theorem test_decode_byteCRC : decodeTableWord 8 0b0000 = some (.byteCRC 0 0) := by decide
theorem test_decode_wordCRC : decodeTableWord 8 0b0001 = some (.wordCRC 0 0) := by decide
theorem test_decode_startSeed : decodeTableWord 8 0b0010 = some (.startSeed 0) := by decide
theorem test_decode_reverseBytes : decodeTableWord 8 0b0011 = some (.reverseBytes 0) := by decide
theorem test_decode_encodeWrite : decodeTableWord 8 0b0100 = some (.encodeWrite 0 0 0) := by decide
theorem test_decode_encodeRequest : decodeTableWord 8 0b0101 = some (.encodeRequest 0 0) := by decide
theorem test_decode_decodeResponse : decodeTableWord 8 0b0110 = some (.decodeResponse 0) := by decide
theorem test_decode_write : decodeTableWord 8 0b1000 = some (.write false 0 0 0) := by decide
theorem test_decode_request : decodeTableWord 8 0b1001 = some (.request false 0 0) := by decide
theorem test_decode_awaitReply : decodeTableWord 8 0b1010 = some (.awaitReply false) := by decide
theorem test_decode_read : decodeTableWord 8 0b1011 = some (.read false 0 0) := by decide
/-- V4, row 2, its bits as the pattern of R51: crc, payload, 1rrrrrrr, address, sync. -/
theorem test_decode_writeDatagram :
    decodeTableWord 64 0b1001111000001010000111110000011000000000100100000000000000000101 =
      some (.writeDatagram 0x05 0x00 0x90 0x0A1F0600 0x9E) := by decide
/-- V5, row 4 (address 1), its bits as the pattern of R52. -/
theorem test_decode_requestDatagram :
    decodeTableWord 32 0b11011001000001100000000100000101 = some (.requestDatagram 0x05 0x01 0x06 0xD9) := by decide
/-- V6, row 3, its bits as the pattern of R53. -/
theorem test_decode_responseDatagram :
    decodeTableWord 64 0b0100111101000000000000000000000000100001000001101111111100000101 =
      some (.responseDatagram 0x05 0xFF 0x06 0x40000021 0x4F) := by decide
/-- R63: code 0x7 selects nothing. -/
theorem test_decode_refuses_unassigned : decodeTableWord 8 0b0111 = none := by decide
/-- P1: the wire bytes of a write datagram, and the direction that tells a response from it. -/
theorem test_decode_wire_bytes :
    decode (params 3) (.wire .echo [0x05, 0x00, 0x90, 0x00, 0x06, 0x1F, 0x0A, 0x9E]) =
        .ok (.writeDatagram 0x05 0x00 0x90 0x0A1F0600 0x9E) ∧
      decode (params 3) (.wire .echo [0x55, 0x00, 0x06, 0x6F]) = .error (.notSync 0x55) ∧
      decode (params 3) (.wire .reply [0x05, 0x00, 0x06, 0x6F]) = .error (.wrongLength 4) := by decide

/-! ### One step per instruction, values of 95_test_vectors.md -/

/-- V1, with the seed that is not zero and a byte that is not a palindrome. -/
theorem test_byteCRC : done (.byteCRC 0x90 0x18) (idle 3 [] []) = some [⟨.byteCRC, .u8 0x77, .ok⟩] := by decide +kernel
/-- V2: the order of the bytes matters. -/
theorem test_wordCRC : done (.wordCRC 0x12345678 0x00) (idle 3 [] []) = some [⟨.wordCRC, .u8 0x4C, .ok⟩] := by decide +kernel
/-- R72: the high bits of the address are not masked. -/
theorem test_startSeed : done (.startSeed 0x02) (idle 3 [] []) = some [⟨.startSeed, .u8 0xDF, .ok⟩] ∧
    done (.startSeed 0x83) (idle 3 [] []) = some [⟨.startSeed, .u8 0x00, .ok⟩] := by decide +kernel
/-- V3. -/
theorem test_reverseBytes : done (.reverseBytes 0x00061F0A) (idle 3 [] []) =
    some [⟨.reverseBytes, .u32 0x0A1F0600, .ok⟩] := by decide
/-- V4, rows 3 and 7. -/
theorem test_encodeWrite :
    done (.encodeWrite 0x01 0x6C 0x10000053) (idle 3 [] []) =
      some [⟨.encodeWrite, .u64 0x7053000010EC0105, .ok⟩] ∧
    done (.encodeWrite 0xFF 0x10 0x12345678) (idle 3 [] []) =
      some [⟨.encodeWrite, .u64 0xC47856341290FF05, .ok⟩] := by decide +kernel
/-- V5, rows 5 and 9. -/
theorem test_encodeRequest :
    done (.encodeRequest 0x02 0x6F) (idle 3 [] []) = some [⟨.encodeRequest, .u32 0xDF6F0205, .ok⟩] ∧
    done (.encodeRequest 0x00 0x82) (idle 3 [] []) = some [⟨.encodeRequest, .u32 0x8F020005, .ok⟩] := by decide +kernel
/-- V6: a good response, and R136: a true value equal to the sentinel. -/
theorem test_decodeResponse_ok :
    done (.decodeResponse 0xA6000011C06FFF05) (idle 3 [] []) = some [⟨.decodeResponse, .u32 0xC0110000, .ok⟩] ∧
    done (.decodeResponse 0x09FFFFFFFF41FF05) (idle 3 [] []) = some [⟨.decodeResponse, .u32 0xFFFFFFFF, .ok⟩] := by
  decide +kernel
/-- V6: S6, a flipped bit, the block's own echo. -/
theorem test_decodeResponse_fails :
    done (.decodeResponse 0xFFFFFFFFFFFFFFFF) (idle 3 [] []) =
      some [⟨.decodeResponse, .u32 0xFFFFFFFF, .replyTimeout⟩] ∧
    done (.decodeResponse 0x4F4000002006FF05) (idle 3 [] []) =
      some [⟨.decodeResponse, .u32 0xFFFFFFFF, .crcMismatch⟩] ∧
    done (.decodeResponse 0x9E0A1F0600900005) (idle 3 [] []) =
      some [⟨.decodeResponse, .u32 0xFFFFFFFF, .crcMismatch⟩] := by decide +kernel
/-- P1. -/
theorem test_write : made (.write true 0x00 0x10 0x00061F0A) (idle 3 [] []) =
    some [.flush, .write 0x05, .write 0x00, .write 0x90, .write 0x00, .write 0x06, .write 0x1F, .write 0x0A,
      .write 0x9E] := by decide +kernel
/-- V7. -/
theorem test_write_absent : made (.write false 0x00 0x10 0x00061F0A) (idle 3 [] []) = some [] ∧
    done (.write false 0x00 0x10 0x00061F0A) (idle 3 [] []) = some [⟨.write, .none, .channelAbsent⟩] := by decide
/-- P6, operation 1. -/
theorem test_request : made (.request true 0x00 0x02) (idle 3 [] []) =
    some [.flush, .write 0x05, .write 0x00, .write 0x02, .write 0x8F] := by decide +kernel
/-- P6, operation 2: the reply arrives during the echo delay. -/
theorem test_awaitReply_reply :
    done (.awaitReply true) (idle 250 [] [slot [], slot [], slot [0x05, 0xFF, 0x02, 0, 0, 0, 0x07, 0xE2]]) =
      some [⟨.awaitReply, .u64 0xE20700000002FF05, .ok⟩] := by decide
/-- V8: budget 0, nothing arrives: one poll test, no poll delay. -/
theorem test_awaitReply_budget_zero :
    made (.awaitReply true) (idle 0 [] []) = some [.flush, .avail 0, .delay 87, .avail 0] ∧
    done (.awaitReply true) (idle 0 [] []) = some [⟨.awaitReply, .u64 0xFFFFFFFFFFFFFFFF, .replyTimeout⟩] := by decide

/-- The script of P3: five bytes arrive during the second poll delay. -/
def scriptP3 : List Slot := List.replicate 11 (slot []) ++ [slot [0x05, 0xFF, 0x06, 0x21, 0x00]]

/-- P3: a read that times out, budget 3. -/
theorem test_read_times_out :
    made (.read true 0x01 0x06) (idle 3 [] scriptP3) =
      some [.flush, .write 0x05, .write 0x01, .write 0x06, .write 0xD9, .flush, .avail 0, .delay 87, .avail 0, .delay 1,
        .avail 0, .delay 1, .avail 5, .delay 1, .avail 5] ∧
    done (.read true 0x01 0x06) (idle 3 [] scriptP3) = some [⟨.read, .u32 0xFFFFFFFF, .replyTimeout⟩] := by decide +kernel

/-- The script of P5: the echo arrives during the echo delay, the reply during the first poll delay. -/
def scriptP5 : List Slot :=
  List.replicate 7 (slot []) ++
    [slot [0x05, 0x00, 0x06, 0x6F], slot [], slot [0x05, 0xFF, 0x06, 0x21, 0x00, 0x00, 0x40, 0x4F]]

/-- P5: echo and reply misframed together; four bytes are left. -/
theorem test_read_late_echo :
    (nextOf (exec (.read true 0x00 0x06) (idle 3 [] scriptP5))).map
        (fun t => (t.regs.raw, t.completions, t.env.rx)) =
      some (0x2106FF056F060005, [⟨.read, .u32 0xFFFFFFFF, .crcMismatch⟩], [0x00, 0x00, 0x40, 0x4F]) := by decide +kernel

/-- P1's datagram coming back as echo, P5's echo, P6's reply: they reach the receive buffer in wire order. -/
theorem test_writeDatagram :
    (nextOf (exec (.writeDatagram 0x05 0x00 0x90 0x0A1F0600 0x9E) (idle 3 [0xAA] []))).map (·.env.rx) =
      some [0xAA, 0x05, 0x00, 0x90, 0x00, 0x06, 0x1F, 0x0A, 0x9E] := by decide
theorem test_requestDatagram :
    (nextOf (exec (.requestDatagram 0x05 0x00 0x06 0x6F) (idle 3 [] []))).map (·.env.rx) =
      some [0x05, 0x00, 0x06, 0x6F] := by decide
theorem test_responseDatagram :
    (nextOf (exec (.responseDatagram 0x05 0xFF 0x02 0x07000000 0xE2) (idle 3 [] []))).map (·.env.rx) =
      some [0x05, 0xFF, 0x02, 0x00, 0x00, 0x00, 0x07, 0xE2] := by decide

/-! ### The step from reset -/

theorem test_step_fetches_the_word :
    (nextOf (step (State.reset.withFetchWord 8 0b1010))).map (·.completions) =
      some [⟨.awaitReply, .u64 0xFFFFFFFFFFFFFFFF, .channelAbsent⟩] := by decide
theorem test_step_takes_a_response :
    (nextOf (step (State.reset.withFetchWord 64 0x4F4000002106FF05))).map (·.env.rx) =
      some [0x05, 0xFF, 0x06, 0x21, 0x00, 0x00, 0x40, 0x4F] := by decide
/-- A channel that never answers leaves the operation in progress (70_reset_and_hazards.md R138). -/
theorem test_hung_write_stays_busy :
    (nextOf (exec (.write true 0 0 0)
        { idle 3 [] [] with env := { Env.reset with rest := { Slot.quiet with ending := .pending } } })).map
        (fun t => (t.phase, t.calls, t.completions)) = some (.sending, [], []) := by decide

/-! ### Witnesses: a state and operands that meet the hypotheses of each obligation, clause by clause -/

theorem witness_EncodeThenDecode : Instr.wf (params 3) (.requestDatagram 0x05 0xFF 0x7F 0xF4) = true := by decide

theorem witness_DecodedIsEncoded :
    decode (params 3) (.wire .echo [0x05, 0xFF, 0x7F, 0xF4]) = .ok (.requestDatagram 0x05 0xFF 0x7F 0xF4) ∧
    decode (params 3) (.wire .reply [0xFF, 0xFF, 0xFF, 0xFF, 0xFF, 0xFF, 0xFF, 0xFF]) =
      .ok (.responseDatagram 0xFF 0xFF 0xFF 0xFFFFFFFF 0xFF) ∧
    decode (params 3) (.command 0xB Operands.zero) = .ok (.read false 0 0) := by decide

theorem witness_UnassignedCodesRefused :
    (idle 3 [] []).phase = .idle ∧
    ({ idle 3 [] [] with inbox := [.command 0xF Operands.zero] } : State).inbox = .command 0xF Operands.zero :: [] ∧
    Op.ofCode 0xF = none := by decide

theorem witness_BuiltDatagramsDecode : (params 3).flagPolicy = .force := by decide

theorem witness_StepRunsDecoded :
    (pushFrame (.command 0x2 Operands.zero) (idle 3 [] [])).phase = .idle ∧
    (pushFrame (.command 0x2 Operands.zero) (idle 3 [] [])).inbox = .command 0x2 Operands.zero :: [] ∧
    decode (params 3) (.command 0x2 Operands.zero) = .ok (.startSeed 0) ∧
    (pushFrame (.wire .echo [0xAA]) (idle 3 [] [])).inbox = .wire .echo [0xAA] :: [] ∧
    decode (params 3) (.wire .echo [0xAA]) = .error (.wrongLength 1) ∧
    (busyAt .waiting .read .test (idle 3 [] [])).phase ≠ .idle ∧
    decode (params 3) (wordFrame (params 3).sync 8 0b0010) = .ok (.startSeed 0) := by decide

theorem witness_AcceptedOnlyInIdle :
    opOf (.byteCRC 0 0) = some .byteCRC ∧ opOf (.read true 0 0) = some .read ∧ (idle 3 [] []).phase = .idle ∧
    (busyAt .draining .read .test (idle 3 [] [])).phase ≠ .idle ∧ (idle 3 [] []).inbox = [] ∧
    (pushFrame (.wire .reply [0x55]) (idle 3 [] [])).phase = .idle ∧
    (pushFrame (.wire .reply [0x55]) (idle 3 [] [])).inbox = .wire .reply [0x55] :: [] := by decide

/-- Idle, with the rule's polynomial, flag policy and default parameters: the premises of PureOperationsComplete,
ByteCrcIsTapRegister, WordCrcFoldsLowByteFirst, StartSeedByAddress, ReverseBytesSwapsEnds, EncodeWriteLayout,
EncodeRequestLayout, DecodeResponseOutcomes, AbsentChannelEndsTheListen, IdleBlockNeverStops, DeadRegistersAreNotSeen. -/
theorem witness_PureOperationsComplete : (idle 3 [] []).phase = .idle := by decide
theorem witness_ByteCrcIsTapRegister : (idle 3 [] []).phase = .idle ∧ (idle 3 [] []).params.poly = 0x07 := by decide
theorem witness_WordCrcFoldsLowByteFirst : (idle 3 [] []).phase = .idle ∧ (idle 3 [] []).params.poly = 0x07 := by decide
theorem witness_StartSeedByAddress : (idle 3 [] []).phase = .idle ∧ (idle 3 [] []).params.seedOther = 0 ∧
    (idle 3 [] []).params.seedsDistinctNonzero = true ∧
    (0 : U8).toNat = 0 ∧ (1 : U8).toNat = 1 ∧ (2 : U8).toNat = 2 ∧ (3 : U8).toNat = 3 ∧ 4 ≤ (4 : U8).toNat ∧
    4 ≤ (0xFF : U8).toNat ∧ (0 : U8).toNat < 4 ∧ (3 : U8) ≠ 0 := by decide
theorem witness_CrcIsMsbFirstOfReversedByte : (params 3).poly = 0x07 := by decide
theorem witness_CrcIsBijective : (params 3).poly = 0x07 := by decide
theorem witness_DefaultSeedsCoverWholeDatagram : (0 : U8).toNat < 4 ∧ (3 : U8).toNat < 4 := by decide
theorem witness_ReverseBytesSwapsEnds : (idle 3 [] []).phase = .idle := by decide
theorem witness_ReverseBytesSelfInverse : 0 < 32 ∧ 31 < 32 := by decide
theorem witness_EncodeWriteLayout : (idle 3 [] []).phase = .idle ∧ (idle 3 [] []).params.flagPolicy = .force ∧
    (idle 3 [] []).params.sync ≠ 0xFF := by decide
theorem witness_EncodeRequestLayout : (idle 3 [] []).phase = .idle ∧ (idle 3 [] []).params.flagPolicy = .force := by
  decide
theorem witness_FlagPoliciesAgreeWhereSaid : (params 3).flagPolicy = .force ∧ (0x7F : U8).toNat < 0x80 ∧
    0x80 ≤ (0x80 : U8).toNat := by decide
/-- All ones; a word whose CRC does not match (V6 row 2 of the other inputs); one whose CRC matches (V6). -/
theorem witness_DecodeResponseOutcomes : (idle 3 [] []).phase = .idle ∧
    wordCRC (params 3) ((0 : U64).extractLsb' 24 32) (byteCRC (params 3) ((0 : U64).extractLsb' 16 8) (params 3).rseed) ≠
      (0 : U64).extractLsb' 56 8 ∧
    wordCRC (params 3) ((0x4F4000002106FF05 : U64).extractLsb' 24 32)
      (byteCRC (params 3) ((0x4F4000002106FF05 : U64).extractLsb' 16 8) (params 3).rseed) =
      (0x4F4000002106FF05 : U64).extractLsb' 56 8 := by decide +kernel
theorem witness_SyncAndAddressNotExamined :
    (0x4F40000021061234 : U64).extractLsb' 16 48 = (0x4F4000002106FF05 : U64).extractLsb' 16 48 ∧
    (0x4F40000021061234 : U64) ≠ sentinel64 ∧ (0x4F4000002106FF05 : U64) ≠ sentinel64 := by decide
theorem witness_OkExactlyOnValidResponses : (decodeResponse (params 3) 0x4F4000002106FF05).2 = .ok ∧
    (decodeResponse (params 3) 0).2 ≠ .ok := by decide +kernel
theorem witness_ReplyRoundTrip : (idle 3 [] []).phase = .idle ∧
    makeResponse (idle 3 [] []).params 0x05 0xFF 0x06 0x21000040 ≠ 0xFFFFFFFFFFFFFFFF := by decide +kernel
theorem witness_FlipPassesByPatternAlone : validResponse (params 3) 0x4F4000002106FF05 = true ∧
    (0x4F4000002106FF05 : U64) ^^^ 0x0000000001000000 ≠ sentinel64 := by decide +kernel
/-- One flipped bit at each end of the range, and two flipped bits at its ends. -/
theorem witness_SmallCorruptionIsCaught : (params 3).poly = 0x07 ∧ validResponse (params 3) 0x4F4000002106FF05 = true ∧
    (0x10000 : U64).extractLsb' 0 16 = 0 ∧ oddBits 0x10000 = true ∧
    (0x8000000000000000 : U64).extractLsb' 0 16 = 0 ∧ oddBits 0x8000000000000000 = true ∧
    (0x8000000000010000 : U64).extractLsb' 0 16 = 0 ∧ (0x8000000000010000 : U64) = (1#64 <<< 16) ^^^ (1#64 <<< 63) := by
  decide +kernel
theorem witness_AbsentChannelEndsTheListen : (idle 3 [] []).phase = .idle := by decide
theorem witness_WriteSendsItsDatagram : (idle 3 [] []).phase = .idle ∧
    (slotsOf 9 (idle 3 [] [slot [1], slot []]).env).all Slot.answers = true := by decide
theorem witness_RequestSendsItsDatagram : (idle 3 [] []).phase = .idle ∧
    (slotsOf 5 (idle 3 [] [slot [1], slot []]).env).all Slot.answers = true := by decide
/-- A line that is quiet until the drain has ended and delivers a byte during every call from then on. -/
def lateLine (n : Nat) : State :=
  { idle 3 [] [] with env := { Env.reset with script := List.replicate n (slot []), rest := slot [0xAA] } }

/-- One stale byte, and the line of `lateLine`, which never falls silent. -/
theorem witness_AwaitReplyCompletes :
    ((idle 3 [1] scriptP5).phase = .idle ∧ (idle 3 [1] scriptP5).env.prompt = true ∧
      DrainEnds 0 (idle 3 [1] scriptP5).env) ∧
    ((lateLine 2).phase = .idle ∧ (lateLine 2).env.prompt = true ∧ DrainEnds 0 (lateLine 2).env) :=
  ⟨⟨by decide, by decide, 1, by decide⟩, ⟨by decide, by decide, 0, by decide⟩⟩
theorem witness_ReadCompletes :
    ((idle 3 [1] scriptP3).phase = .idle ∧ (idle 3 [1] scriptP3).env.prompt = true ∧
      DrainEnds 5 (idle 3 [1] scriptP3).env) ∧
    ((lateLine 7).phase = .idle ∧ (lateLine 7).env.prompt = true ∧ DrainEnds 5 (lateLine 7).env) :=
  ⟨⟨by decide, by decide, 1, by decide⟩, ⟨by decide, by decide, 0, by decide⟩⟩
/-- The drain takes the stale byte and all twelve that the line delivers: its fourteenth test finds nothing. -/
theorem witness_ReadIsComposite : (idle 3 [1] scriptP5).phase = .idle ∧ (idle 3 [1] scriptP5).env.prompt = true ∧
    DrainEnds 5 (idle 3 [1] scriptP5).env :=
  ⟨by decide, by decide, 13, by decide⟩
theorem witness_SilentLineTimesOut : (idle 3 [1, 2] [slot []]).phase = .idle ∧
    (idle 3 [1, 2] [slot []]).env.prompt = true ∧ (idle 3 [1, 2] [slot []]).env.silent = true := by decide

/-- A read whose valid reply arrives whole during the third poll delay of a budget of 3. -/
def goodRead : State :=
  idle 3 [] (List.replicate 13 (slot []) ++ [slot [0x05, 0xFF, 0x06, 0x21, 0x00, 0x00, 0x40, 0x4F]])

theorem witness_GoodReadReturnsTheValue : goodRead.phase = .idle ∧ goodRead.env.rx = [] ∧
    3 ≤ goodRead.params.replyBudget ∧
    makeResponse goodRead.params 0x05 0xFF 0x06 0x21000040 ≠ 0xFFFFFFFFFFFFFFFF ∧
    (slotsOf (17 + 2 * 3) goodRead.env).all Slot.answers = true ∧ arrivalsOf (7 + 2 * 3) goodRead.env = [] ∧
    arrivalsOf (8 + 2 * 3) goodRead.env = wireBytes 8 (makeResponse goodRead.params 0x05 0xFF 0x06 0x21000040) := by
  decide +kernel
theorem witness_EveryOperationEndsOnce : opOf (.read true 0 6) = some .read ∧ goodRead.phase = .idle ∧
    goodRead.env.prompt = true ∧ (Op.read = .awaitReply → DrainEnds 0 goodRead.env) ∧
    (Op.read = .read → DrainEnds 5 goodRead.env) ∧ opOf (.awaitReply true) = some .awaitReply ∧
    DrainEnds 0 goodRead.env :=
  ⟨by decide, by decide, by decide, nofun, fun _ => ⟨0, by decide⟩, by decide, ⟨0, by decide⟩⟩
theorem witness_IdleBlockNeverStops : goodRead.phase = .idle ∧
    isOperation (.responseDatagram 0 0 0 0 0) = false := by decide
theorem witness_ListenIsBounded : (busyAt .waiting .read .test (idle 3 [1] [])).inv = true ∧
    (busyAt .waiting .read .test (idle 3 [1] [])).phase = .waiting ∧
    (busyAt .waiting .read .test (idle 3 [1] [])).env.prompt = true := by decide

/-- A block in the drain on a line that never stops. -/
def babbling : State :=
  { busyAt .draining .awaitReply .act (idle 3 [1] []) with env := { Env.reset with rx := [1], rest := slot [0xAA] } }

theorem witness_EndlessDrain : babbling.inv = true ∧ babbling.phase = .draining ∧ babbling.env.prompt = true ∧
    babbling.env.neverSilent = true := by decide

/-- A block in SENDING whose next call never returns. -/
def hung : State :=
  { sendingRead (idle 3 [] []) with env := { Env.reset with rest := { Slot.quiet with ending := .pending } } }

theorem witness_HungCallHolds : hung.inv = true ∧ hung.phase ≠ .idle ∧ hung.phase ≠ .timedOut ∧
    hung.env.script = [] ∧ hung.env.rest.ending = .pending := by decide
/-- The phase before a tick, whether the invariant holds there, and the phase after it. -/
def move (s : State) : Phase × Bool × Option Phase := (s.phase, s.inv, (nextOf (tick s)).map (·.phase))

/-- A block in SENDING with all bytes but the last handed over. -/
def lastByte (s : State) : State := { s with regs := { s.regs with txi := s.regs.txn - 1, point := .act } }

/-- The countdown at 0, and seven bytes taken. -/
def countedOut (s : State) : State := { s with regs := { s.regs with cnt := 0, rxi := 7 } }

/-- Each row of R100 out of a BUSY phase, from a state that meets the invariant; and the rows out of IDLE. -/
theorem witness_PhaseMovesAsTabled :
    move (lastByte (enterSending (encodeWrite (params 3) 0x00 0x10 0x00061F0A) 8
      (captureWrite true 0x00 0x10 0x00061F0A (idle 3 [] [])))) = (.sending, true, some .idle) ∧
    move (lastByte (enterSending ((encodeRequest (params 3) 0x00 0x06).setWidth 64) 4
      (captureRequest true 0x00 0x06 (idle 3 [] [])))) = (.sending, true, some .idle) ∧
    move (lastByte (sendingRead (idle 3 [] []))) = (.sending, true, some .draining) ∧
    move (busyAt .draining .read .test (idle 3 [] [])) = (.draining, true, some .waiting) ∧
    move (busyAt .waiting .read .test (idle 3 [1, 2, 3, 4, 5, 6, 7, 8] [])) = (.waiting, true, some .complete) ∧
    move (countedOut (busyAt .waiting .read .test (idle 3 [1] []))) = (.waiting, true, some .timedOut) ∧
    move (countedOut (busyAt .complete .read .first (idle 3 [8] []))) = (.complete, true, some .idle) ∧
    move (busyAt .timedOut .awaitReply .first (idle 3 [] [])) = (.timedOut, true, some .idle) ∧
    opOf (.wordCRC 0 0) = some .wordCRC ∧ Op.wordCRC.code.getLsbD 3 = false ∧ (idle 3 [] []).phase = .idle ∧
    Instr.read false 0 6 ∈ [Instr.write false 0 6 0, .request false 0 6, .awaitReply false, .read false 0 6] := by
  decide +kernel
theorem witness_StepKeepsTheInvariant : hung.inv = true ∧ (nextOf (step hung)).isSome = true ∧
    babbling.inv = true ∧ (nextOf (step babbling)).isSome = true := by decide
/-- A listen whose flush is done, with a byte handed over, recorded and sent. -/
def flushed : State :=
  { busyAt .draining .read .test (idle 3 [] []) with
    env := { Env.reset with txSent := [0x05] }, calls := [.flush, .write 0x05, .flush] }
theorem witness_StepKeepsTheTransmitStream : flushed.streamRecorded = true ∧ (nextOf (step flushed)).isSome = true := by
  decide
theorem witness_StepKeepsTransmitBeforeReceive : flushed.flushedToListen = true ∧
    (nextOf (step flushed)).map (·.phase) = some .waiting := by decide
theorem witness_NoReadOnEmptyBuffer : babbling.inv = true := by decide

/-- A block in SENDING that is reset during its next call. -/
def resetting : State :=
  { sendingRead (idle 3 [] []) with env := { Env.reset with rest := { Slot.quiet with ending := .reset } } }

theorem witness_ResetAbandonsTheOperation : resetting.inv = true ∧ resetting.phase ≠ .idle ∧
    resetting.phase ≠ .timedOut ∧ resetting.env.slot.ending = .reset := by decide
theorem witness_ParametersNeverChange : (nextOf (step babbling)).isSome = true := by decide
theorem witness_RecordsOnlyGrow :
    (nextOf (step (pushFrame (.command 0x2 Operands.zero) (idle 3 [] [])))).isSome = true := by decide
theorem witness_DeadRegistersAreNotSeen : goodRead.phase = .idle := by decide
/-- The three ways a call ends. -/
theorem witness_EachCallHasItsEffect :
    (babbling.phase ≠ .idle ∧ babbling.phase ≠ .timedOut ∧ (nextOf (tick babbling)).isSome = true ∧
      babbling.env.slot.ending = .returns) ∧
    (hung.phase ≠ .idle ∧ (nextOf (tick hung)).isSome = true ∧ hung.env.slot.ending ≠ .returns) ∧
    (resetting.phase ≠ .idle ∧ (nextOf (tick resetting)).isSome = true ∧ resetting.env.slot.ending ≠ .returns) := by
  decide
theorem witness_BytesAreConserved : isOperation (.read true 0 6) = true ∧
    (nextOf (exec (.read true 0 6) goodRead)).isSome = true := by decide
theorem witness_HalfDuplex : (nextOf (exec (.read true 0 6) goodRead)).isSome = true := by decide
theorem witness_RecordsAreNotRead : goodRead.phase = .idle ∧
    (nextOf (exec (.read true 0 6) { goodRead with calls := [], completions := [] })).isSome = true := by decide

/-- A lone listen whose eight bytes arrive during the echo delay. -/
def listenState : State := idle 3 [] [slot [], slot [], slot [0x05, 0xFF, 0x02, 0, 0, 0, 0x07, 0xE2]]

theorem witness_OldestEightBytesAreTaken : listenState.phase = .idle ∧ listenState.env.prompt = true ∧
    listenState.env.rx = [] ∧ arrivalsOf 2 listenState.env = [] ∧
    (nextOf (exec (.awaitReply true) listenState)).map (·.completions) =
      some (listenState.completions ++ [⟨.awaitReply, .u64 0xE20700000002FF05, .ok⟩]) := by decide

end Sys2Proof.Tests
end

/-! ### What an idle block does with an instruction

Every instruction of an idle block is one start followed by the run of the operation in progress, if there is one. -/

namespace Sys2Proof.Machine

/-- The state right after an idle block has accepted an instruction: a pure operation and an operation without a channel
have completed, a datagram has reached the receive buffer, any other operation stands before its first primitive call. -/
def started (s : State) : Instr → State
  | .byteCRC b sd => present .byteCRC (.u8 (byteCRC s.params b sd)) .ok s
  | .wordCRC v sd => present .wordCRC (.u8 (wordCRC s.params v sd)) .ok s
  | .startSeed a => present .startSeed (.u8 (startSeed s.params a)) .ok s
  | .reverseBytes x => present .reverseBytes (.u32 (reverseBytes x)) .ok s
  | .encodeWrite a r v => present .encodeWrite (.u64 (encodeWrite s.params a r v)) .ok s
  | .encodeRequest a r => present .encodeRequest (.u32 (encodeRequest s.params a r)) .ok s
  | .decodeResponse raw =>
      present .decodeResponse (.u32 (decodeResponse s.params raw).1) (decodeResponse s.params raw).2 s
  | .write true a r v => enterSending (encodeWrite s.params a r v) 8 (captureWrite true a r v s)
  | .write false a r v => complete .none .channelAbsent (captureWrite false a r v s)
  | .request true a r => enterSending ((encodeRequest s.params a r).setWidth 64) 4 (captureRequest true a r s)
  | .request false a r => complete .none .channelAbsent (captureRequest false a r s)
  | .awaitReply true => enterDraining (captureAwait true s)
  | .awaitReply false => complete (.u64 sentinel64) .channelAbsent (captureAwait false s)
  | .read true a r => enterSending ((encodeRequest s.params a r).setWidth 64) 4 (captureRead true a r s)
  | .read false a r => complete (.u32 sentinel32) .channelAbsent (captureRead false a r s)
  | .writeDatagram y a f d c => receiveBytes (datagramBytes (.writeDatagram y a f d c)) s
  | .requestDatagram y a f c => receiveBytes (datagramBytes (.requestDatagram y a f c)) s
  | .responseDatagram y a f d c => receiveBytes (datagramBytes (.responseDatagram y a f d c)) s

theorem runToIdle_idle {s : State} (h : s.phase = .idle) : runToIdle s = .next s := runOperation_idle _ h

/-- A pure operation of an idle block, as the run of an operation that has already ended. -/
theorem completePure_eq_runToIdle {op : Op} {v : Result} {st : Status} {s : State} (h : s.phase = .idle) :
    completePure op v st s = runToIdle (present op v st s) := by
  rw [completePure_idle h, runToIdle_idle (by simpa using h)]

/-- The meaning of every instruction on an idle block: its start, then the run of the operation in progress. -/
theorem exec_eq_runToIdle_started {s : State} (h : s.phase = .idle) (i : Instr) :
    exec i s = runToIdle (started s i) := by
  cases i with
  | byteCRC b sd => exact completePure_eq_runToIdle h
  | wordCRC v sd => exact completePure_eq_runToIdle h
  | startSeed a => exact completePure_eq_runToIdle h
  | reverseBytes x => exact completePure_eq_runToIdle h
  | encodeWrite a r v => exact completePure_eq_runToIdle h
  | encodeRequest a r => exact completePure_eq_runToIdle h
  | decodeResponse raw => exact completePure_eq_runToIdle h
  | write c a r v =>
    rw [show exec (.write c a r v) s = execWrite c a r v s from rfl, execWrite, accept_idle h]
    cases c
    · exact (runToIdle_idle rfl).symm
    · rfl
  | request c a r =>
    rw [show exec (.request c a r) s = execRequest c a r s from rfl, execRequest, accept_idle h]
    cases c
    · exact (runToIdle_idle rfl).symm
    · rfl
  | awaitReply c =>
    rw [show exec (.awaitReply c) s = execAwaitReply c s from rfl, execAwaitReply, accept_idle h]
    cases c
    · exact (runToIdle_idle rfl).symm
    · rfl
  | read c a r =>
    rw [show exec (.read c a r) s = execRead c a r s from rfl, execRead, accept_idle h]
    cases c
    · exact (runToIdle_idle rfl).symm
    · rfl
  | writeDatagram | requestDatagram | responseDatagram => exact (runToIdle_idle (s := receiveBytes _ s) h).symm

/-- Everything a step of an idle block can do, when it answers a next state: nothing is presented; the oldest item is an
instruction and is run; or it is noise and reaches the receive buffer. -/
theorem step_idle_cases {s t : State} (hp : s.phase = .idle) (h : step s = .next t) :
    (s.inbox = [] ∧ t = s) ∨
    ∃ f rest, s.inbox = f :: rest ∧
      ((∃ i, decode s.params f = .ok i ∧ exec i { s with inbox := rest } = .next t) ∨
       (∃ dir bytes, f = .wire dir bytes ∧ t = receiveBytes bytes { s with inbox := rest })) := by
  cases hi : s.inbox with
  | nil =>
    simp only [step, busy_eq_false.mpr hp, fetch, hi] at h
    cases h
    exact .inl ⟨rfl, rfl⟩
  | cons f rest =>
    rw [step_fetch hp hi] at h
    refine .inr ⟨f, rest, rfl, ?_⟩
    unfold runFrame at h
    split at h
    next i hd => exact .inl ⟨i, hd, h⟩
    next why hd =>
      cases f with
      | command code o => cases h
      | wire dir bytes => cases h; exact .inr ⟨dir, bytes, rfl, rfl⟩

/-- The induction of a step, packaged once: what holds is kept by a step when the ticks of a BUSY block, the start of an
instruction, the taking of an item and the arrival of noise keep it. -/
theorem step_induction {P : State → Prop}
    (htick : ∀ s t, s.phase ≠ .idle → P s → tick s = .next t → P t)
    (hstart : ∀ s i, s.phase = .idle → P s → P (started s i))
    (htake : ∀ s rest, s.phase = .idle → P s → P { s with inbox := rest })
    (hnoise : ∀ s bytes, s.phase = .idle → P s → P (receiveBytes bytes s))
    {s t : State} (h0 : P s) (h : step s = .next t) : P t := by
  by_cases hp : s.phase = .idle
  · rcases step_idle_cases hp h with ⟨-, rfl⟩ | ⟨f, rest, -, ⟨i, -, hx⟩ | ⟨dir, bytes, -, rfl⟩⟩
    · exact h0
    · rw [exec_eq_runToIdle_started (s := { s with inbox := rest }) hp] at hx
      exact runOperation_induction htick (hstart { s with inbox := rest } i hp (htake s rest hp h0)) hx
    · exact hnoise _ bytes hp (htake s rest hp h0)
  · rw [step_busy hp] at h
    exact htick s t hp h0 h

/-! ### The parameters -/

theorem finishListening_params (st : Status) (s : State) : (finishListening st s).params = s.params := by
  obtain ⟨v, st', h⟩ := finishListening_spec st s
  rw [h, complete_params]

theorem finishSending_params (s : State) : (finishSending s).params = s.params := by
  rcases finishSending_spec s with ⟨-, h⟩ | ⟨-, h⟩ <;> rw [h] <;> rfl

theorem sendByte_params (s : State) : (sendByte s).params = s.params := by
  unfold sendByte
  dsimp only
  split
  · rfl
  · exact finishSending_params _

theorem drainTest_params (s : State) : (drainTest s).params = s.params := by
  unfold drainTest
  split <;> rfl

theorem pollTest_params (s : State) : (pollTest s).params = s.params := by
  unfold pollTest
  split
  · rfl
  · split <;> rfl

theorem takeByte_params (b : U8) (s : State) : (takeByte b s).params = s.params := by
  unfold takeByte
  dsimp only
  split
  · rfl
  · exact finishListening_params _ _

/-- A primitive call that returned leaves the parameters alone. -/
theorem Returned.params_eq {s t : State} (h : Returned s t) : t.params = s.params := by
  cases h with
  | sendFlush | listenFlush | drainByte | startPoll | pollAgain => rfl
  | sendByte => exact sendByte_params s
  | drainTest => exact drainTest_params s
  | pollTest => exact pollTest_params s
  | takeByte b => exact takeByte_params b _

theorem tick_params {s t : State} (hb : s.phase ≠ .idle) (h : tick s = .next t) : t.params = s.params := by
  rcases tick_cases hb h with ⟨-, rfl⟩ | ⟨-, ⟨-, rfl⟩ | ⟨-, rfl⟩ | ⟨-, hr⟩⟩
  · exact finishListening_params _ _
  · rfl
  · rfl
  · exact hr.params_eq

theorem started_params (s : State) (i : Instr) : (started s i).params = s.params := by
  unfold started
  split <;> rfl

/-- Settles O47: every tick, every start and every arrival leaves the parameters alone. -/
theorem parametersNeverChange : Obligations.ParametersNeverChange := by
  intro s t h
  refine step_induction (P := fun u => u.params = s.params) ?_ ?_ ?_ ?_ rfl h
  · exact fun u v hb hu hv => (tick_params hb hv).trans hu
  · exact fun u i _ hu => (started_params u i).trans hu
  · exact fun u rest _ hu => hu
  · exact fun u bytes _ hu => hu

/-! ### The invariant of the phase machine

`State.inv` phase by phase, then what keeps it. -/

theorem inv_of_idle {s : State} (h : s.phase = .idle) : s.inv = true := by simp [State.inv, h]

theorem inv_sending_iff {s : State} (h : s.phase = .sending) : s.inv = true ↔ sendingInv s = true := by
  simp [State.inv, h]

theorem inv_draining_iff {s : State} (h : s.phase = .draining) :
    s.inv = true ↔ listening s = true ∧ (s.regs.point = .act → s.env.rx ≠ []) := by
  simp [State.inv, h, imp_iff_not_or]

theorem inv_waiting_iff {s : State} (h : s.phase = .waiting) :
    s.inv = true ↔ listening s = true ∧ (s.regs.point ≠ .first → s.regs.cnt ≤ s.params.replyBudget) ∧
      (s.regs.point = .act → 0 < s.regs.cnt) := by
  simp [State.inv, h, imp_iff_not_or, and_assoc]

theorem inv_complete_iff {s : State} (h : s.phase = .complete) :
    s.inv = true ↔ listening s = true ∧ s.regs.rxi < 8 ∧ 8 ≤ s.env.rx.length + s.regs.rxi := by
  simp [State.inv, h, and_assoc]

theorem inv_timedOut_iff {s : State} (h : s.phase = .timedOut) : s.inv = true ↔ listening s = true := by
  simp [State.inv, h]

/-- Listening depends on OP and CHAN_PRESENT alone. -/
theorem listening_congr {s t : State} (ho : t.regs.op = s.regs.op) (hc : t.regs.chanPresent = s.regs.chanPresent) :
    listening t = listening s := by
  simp [listening, ho, hc]

/-- What sending keeps true of the registers but for the place and TXI: there is a channel, and OP, TXN and DGRAM fit the
captured operands (20_memory.md R44). -/
def datagramCaptured (s : State) : Prop :=
  s.regs.chanPresent = true ∧
  ((s.regs.op = .write ∧ s.regs.txn = 8 ∧ s.regs.dgram = encodeWrite s.params s.regs.addr s.regs.reg s.regs.value) ∨
   ((s.regs.op = .request ∨ s.regs.op = .read) ∧ s.regs.txn = 4 ∧
      s.regs.dgram = (encodeRequest s.params s.regs.addr s.regs.reg).setWidth 64))

theorem sendingInv_iff (s : State) :
    sendingInv s = true ↔ datagramCaptured s ∧ s.regs.point ≠ .test ∧ s.regs.txi < s.regs.txn ∧
      (s.regs.point = .first → s.regs.txi = 0) := by
  unfold sendingInv datagramCaptured
  cases s.regs.op <;> simp [imp_iff_not_or] <;> tauto

/-- A `read` whose datagram is out listens. -/
theorem listening_of_datagramCaptured {s : State} (h : datagramCaptured s) (ho : s.regs.op = .read) :
    listening s = true := by
  simp [listening, h.1, ho]

/-- The time of a call only adds to the receive buffer. -/
theorem inv_elapse {s : State} (h : s.inv = true) : (elapse s).inv = true := by
  cases hp : s.phase with
  | idle => exact inv_of_idle hp
  | sending => exact (inv_sending_iff (by simpa)).mpr ((inv_sending_iff hp).mp h)
  | draining =>
    obtain ⟨hl, hrx⟩ := (inv_draining_iff hp).mp h
    exact (inv_draining_iff (by simpa)).mpr ⟨hl, fun ha => by simp [hrx ha]⟩
  | waiting => exact (inv_waiting_iff (by simpa)).mpr ((inv_waiting_iff hp).mp h)
  | complete =>
    obtain ⟨hl, hi, hrx⟩ := (inv_complete_iff hp).mp h
    exact (inv_complete_iff (by simpa)).mpr ⟨hl, hi, by simp; omega⟩
  | timedOut => exact (inv_timedOut_iff (by simpa)).mpr ((inv_timedOut_iff hp).mp h)

theorem inv_finishSending {s : State} (h : datagramCaptured s) : (finishSending s).inv = true := by
  rcases finishSending_spec s with ⟨ho, e⟩ | ⟨-, e⟩ <;> rw [e]
  · exact (inv_draining_iff rfl).mpr ⟨listening_of_datagramCaptured h ho, nofun⟩
  · exact inv_of_idle rfl

theorem inv_finishListening (st : Status) (s : State) : (finishListening st s).inv = true := by
  obtain ⟨v, st', e⟩ := finishListening_spec st s
  rw [e]
  exact inv_of_idle rfl

theorem inv_sendByte {s : State} (hp : s.phase = .sending) (hq : s.regs.point ≠ .first) (h : s.inv = true) :
    (sendByte s).inv = true := by
  obtain ⟨hd, ht, -, -⟩ := (sendingInv_iff s).mp ((inv_sending_iff hp).mp h)
  unfold sendByte
  dsimp only
  split
  · exact (inv_sending_iff (by simpa)).mpr ((sendingInv_iff _).mpr ⟨hd, ht, ‹_›, fun hf => absurd hf hq⟩)
  · exact inv_finishSending hd

theorem inv_drainTest {s : State} (hp : s.phase = .draining) (h : s.inv = true) : (drainTest s).inv = true := by
  obtain ⟨hl, -⟩ := (inv_draining_iff hp).mp h
  unfold drainTest
  split
  · exact (inv_waiting_iff rfl).mpr ⟨hl, fun hf => absurd rfl hf, nofun⟩
  · exact (inv_draining_iff (by simpa)).mpr ⟨hl, fun _ => List.ne_nil_of_length_pos (Nat.pos_of_ne_zero ‹_›)⟩

theorem inv_pollTest {s : State} (hp : s.phase = .waiting) (hq : s.regs.point = .test) (h : s.inv = true) :
    (pollTest s).inv = true := by
  obtain ⟨hl, hc, -⟩ := (inv_waiting_iff hp).mp h
  unfold pollTest
  split
  · exact (inv_complete_iff rfl).mpr ⟨hl, by simp, by simpa [availCount] using ‹_›⟩
  · split
    · exact (inv_timedOut_iff rfl).mpr hl
    · exact (inv_waiting_iff (by simpa)).mpr ⟨hl, fun _ => hc (by simp [hq]), fun _ => Nat.pos_of_ne_zero ‹_›⟩

theorem inv_takeByte {s : State} {b : U8} (hp : s.phase = .complete) (hb : s.env.rx.head? = some b)
    (h : s.inv = true) : (takeByte b (readDone b s)).inv = true := by
  obtain ⟨hl, -, hrx⟩ := (inv_complete_iff hp).mp h
  unfold takeByte
  dsimp only
  split
  · refine (inv_complete_iff (by simpa [readDone])).mpr ⟨hl, ‹_›, ?_⟩
    have : s.env.rx ≠ [] := by rintro e; simp [e] at hb
    have := List.length_pos_iff.mpr this
    simp [readDone]
    omega
  · exact inv_finishListening _ _

/-- What the block does when a call returns keeps the invariant. -/
theorem Returned.inv {s t : State} (hr : Returned s t) (h : s.inv = true) : t.inv = true := by
  cases hr with
  | sendFlush hp hq =>
    obtain ⟨hd, -, hi, -⟩ := (sendingInv_iff s).mp ((inv_sending_iff hp).mp h)
    exact (inv_sending_iff (by simpa)).mpr ((sendingInv_iff _).mpr ⟨hd, nofun, hi, nofun⟩)
  | sendByte hp hq => exact inv_sendByte hp hq h
  | listenFlush hp | drainByte _ hp =>
    obtain ⟨hl, -⟩ := (inv_draining_iff hp).mp h
    exact (inv_draining_iff (by simpa [readDone])).mpr ⟨hl, nofun⟩
  | drainTest hp hq => exact inv_drainTest hp h
  | startPoll hp hq =>
    obtain ⟨hl, -, -⟩ := (inv_waiting_iff hp).mp h
    exact (inv_waiting_iff (s := Machine.startPoll s) hp).mpr ⟨hl, fun _ => le_rfl, nofun⟩
  | pollTest hp hq => exact inv_pollTest hp hq h
  | pollAgain hp hq =>
    obtain ⟨hl, hc, -⟩ := (inv_waiting_iff hp).mp h
    refine (inv_waiting_iff (s := Machine.pollAgain s) hp).mpr ⟨hl, fun _ => ?_, nofun⟩
    exact (Nat.sub_le _ _).trans (hc (by simp [hq]))
  | takeByte b hp hb => exact inv_takeByte hp hb h

/-- Every tick of a BUSY block keeps the invariant. -/
theorem inv_tick {s t : State} (hb : s.phase ≠ .idle) (h : s.inv = true) (ht : tick s = .next t) : t.inv = true := by
  rcases tick_cases hb ht with ⟨-, rfl⟩ | ⟨-, ⟨-, rfl⟩ | ⟨-, rfl⟩ | ⟨-, hr⟩⟩
  · exact inv_finishListening _ _
  · exact inv_elapse h
  · exact inv_of_idle rfl
  · exact hr.inv (inv_elapse h)

/-- SENDING is entered with the invariant when the datagram fits the captured operands. -/
theorem inv_enterSending {s : State} {w : U64} {n : Nat} (hn : 0 < n) (h : datagramCaptured (enterSending w n s)) :
    (enterSending w n s).inv = true :=
  (inv_sending_iff rfl).mpr ((sendingInv_iff _).mpr ⟨h, nofun, hn, fun _ => rfl⟩)

/-- Every instruction starts with the invariant. -/
theorem inv_started {s : State} (hp : s.phase = .idle) (i : Instr) : (started s i).inv = true := by
  cases i with
  | byteCRC | wordCRC | startSeed | reverseBytes | encodeWrite | encodeRequest | decodeResponse
  | writeDatagram | requestDatagram | responseDatagram => exact inv_of_idle hp
  | write c a r v =>
    cases c
    · exact inv_of_idle rfl
    · exact inv_enterSending (by decide) ⟨rfl, .inl ⟨rfl, rfl, rfl⟩⟩
  | request c a r =>
    cases c
    · exact inv_of_idle rfl
    · exact inv_enterSending (by decide) ⟨rfl, .inr ⟨.inl rfl, rfl, rfl⟩⟩
  | awaitReply c =>
    cases c
    · exact inv_of_idle rfl
    · exact (inv_draining_iff rfl).mpr ⟨rfl, nofun⟩
  | read c a r =>
    cases c
    · exact inv_of_idle rfl
    · exact inv_enterSending (by decide) ⟨rfl, .inr ⟨.inr rfl, rfl, rfl⟩⟩

/-- Settles O43: every tick keeps the invariant, every instruction starts with it, and in IDLE it asks nothing. -/
theorem stepKeepsTheInvariant : Obligations.StepKeepsTheInvariant := fun _ _ h hs =>
  step_induction (P := fun u => u.inv = true) (fun _ _ hb hu ht => inv_tick hb hu ht)
    (fun _ i hp _ => inv_started hp i) (fun _ _ hp _ => inv_of_idle hp) (fun _ _ hp _ => inv_of_idle hp) h hs

end Sys2Proof.Machine

/-! ### Two runs side by side

A tick as a function of what the block does when its call returns, and the simulation that follows from it. -/

namespace Sys2Proof.Machine

/-- The next tick is a `ChanRead`. -/
def reading (s : State) : Prop := s.phase = .complete ∨ (s.phase = .draining ∧ s.regs.point = .act)

/-- What the block does when the call of its tick returns, as a function of the state after the call's time. -/
def afterCall (s : State) : State :=
  match s.phase, s.regs.point with
  | .sending, .first => setPoint .act (chanFlush s)
  | .sending, _ => sendByte s
  | .draining, .first => setPoint .test (chanFlush s)
  | .draining, .test => drainTest s
  | .draining, .act => setPoint .test (readDone (s.env.rx.headD 0) s)
  | .waiting, .first => startPoll s
  | .waiting, .test => pollTest s
  | .waiting, .act => pollAgain s
  | .complete, _ => takeByte (s.env.rx.headD 0) (readDone (s.env.rx.headD 0) s)
  | _, _ => s

/-- A call looks at what follows it only in the state after the call's time. -/
theorem call_congr {s : State} {k k' : State → StepResult} (h : k (elapse s) = k' (elapse s)) :
    call s k = call s k' := by
  unfold call
  rw [h]

/-- A `ChanRead` tick on an empty buffer is the channel's fault (93_implementation_defined.md U4). -/
theorem tick_fault {s : State} (h : reading s) (hr : s.env.rx = []) : tick s = .fault .readOnEmptyBuffer := by
  rcases h with hp | ⟨hp, hq⟩
  · rw [tick_complete hp]; exact chanRead_nil hr
  · rw [tick_draining hp, tickDraining, hq]; exact chanRead_nil hr

/-- Every other tick of a BUSY block, but for the last one of a timeout, is one primitive call. -/
theorem tick_eq_call {s : State} (hb : s.phase ≠ .idle) (ht : s.phase ≠ .timedOut)
    (hr : reading s → s.env.rx ≠ []) : tick s = call s fun s => .next (afterCall s) := by
  cases hp : s.phase with
  | idle => exact absurd hp hb
  | timedOut => exact absurd hp ht
  | sending =>
    rw [tick_sending hp, tickSending]
    cases hq : s.regs.point <;> exact call_congr (by simp [afterCall, hp, hq])
  | draining =>
    rw [tick_draining hp, tickDraining]
    cases hq : s.regs.point with
    | first | test => exact call_congr (by simp [afterCall, hp, hq])
    | act =>
      obtain ⟨b, l, hx⟩ := List.exists_cons_of_ne_nil (hr (.inr ⟨hp, hq⟩))
      exact (chanRead_cons hx).trans (call_congr (by simp [afterCall, hp, hq, hx, readDone]))
  | waiting =>
    rw [tick_waiting hp, tickWaiting]
    cases hq : s.regs.point <;> exact call_congr (by simp [afterCall, hp, hq])
  | complete =>
    obtain ⟨b, l, hx⟩ := List.exists_cons_of_ne_nil (hr (.inl hp))
    rw [tick_complete hp, tickComplete]
    exact (chanRead_cons hx).trans (call_congr (by simp [afterCall, hp, hx, readDone]))

/-- Two outcomes of the same kind, the states they go on with related. -/
inductive Related (R : State → State → Prop) : StepResult → StepResult → Prop where
  | next {s t : State} (h : R s t) : Related R (.next s) (.next t)
  | fault (f : Fault) : Related R (.fault f) (.fault f)
  | refused (r : Refusal) : Related R (.refused r) (.refused r)

/-- A relation under which two blocks stand beside the same channel and do the same, call by call. -/
structure Simulation (R : State → State → Prop) : Prop where
  phase : ∀ {s t}, R s t → t.phase = s.phase
  env : ∀ {s t}, R s t → t.env = s.env
  params : ∀ {s t}, R s t → t.params = s.params
  reading : ∀ {s t}, R s t → (reading t ↔ reading s)
  elapse : ∀ {s t}, R s t → R (elapse s) (elapse t)
  applyReset : ∀ {s t}, R s t → R (applyReset s) (applyReset t)
  afterCall : ∀ {s t}, R s t → R (afterCall s) (afterCall t)
  expire : ∀ {s t}, s.phase = .timedOut → R s t → R (expire s) (expire t)
  started : ∀ {s t} (i : Instr), s.phase = .idle → R s t → R (started s i) (started t i)

section
variable {R : State → State → Prop} (hR : Simulation R)
include hR

theorem Simulation.tick {s t : State} (hb : s.phase ≠ .idle) (h : R s t) : Related R (tick s) (tick t) := by
  have hb' : t.phase ≠ .idle := by rwa [hR.phase h]
  by_cases ht : s.phase = .timedOut
  · rw [tick_timedOut ht, tick_timedOut ((hR.phase h).trans ht)]
    exact .next (hR.expire ht h)
  by_cases hf : Machine.reading s ∧ s.env.rx = []
  · rw [tick_fault hf.1 hf.2, tick_fault ((hR.reading h).mpr hf.1) (by rw [hR.env h]; exact hf.2)]
    exact .fault _
  have hr : Machine.reading s → s.env.rx ≠ [] := fun hs hx => hf ⟨hs, hx⟩
  rw [tick_eq_call hb ht hr, tick_eq_call hb' (by rwa [hR.phase h]) (by rwa [hR.reading h, hR.env h])]
  have he := hR.elapse h
  cases hx : s.env.slot.ending with
  | returns =>
    rw [call_returns hx, call_returns (by rwa [hR.env h])]
    exact .next (hR.afterCall he)
  | pending =>
    rw [call_pending hx, call_pending (by rwa [hR.env h])]
    exact .next he
  | reset =>
    rw [call_reset hx, call_reset (by rwa [hR.env h])]
    exact .next (hR.applyReset he)

theorem Simulation.runOperation (n : Nat) {s t : State} (h : R s t) :
    Related R (runOperation n s) (runOperation n t) := by
  induction n generalizing s t with
  | zero => exact .next h
  | succ n ih =>
    by_cases hb : s.phase = .idle
    · rw [runOperation_idle _ hb, runOperation_idle _ ((hR.phase h).trans hb)]
      exact .next h
    · have hbs : s.busy = true := busy_eq_true.mpr hb
      have hbt : t.busy = true := by rwa [State.busy, hR.phase h]
      have hk := hR.tick hb h
      simp only [Machine.runOperation, hbs, hbt, if_true]
      cases hs : Machine.tick s <;> cases ht : Machine.tick t <;> rw [hs, ht] at hk <;> cases hk
      · exact ih ‹_›
      · exact .fault _
      · exact .refused _

/-- Related idle blocks answer every instruction alike. -/
theorem Simulation.exec {s t : State} (hp : s.phase = .idle) (h : R s t) (i : Instr) :
    Related R (exec i s) (exec i t) := by
  rw [exec_eq_runToIdle_started hp, exec_eq_runToIdle_started ((hR.phase h).trans hp), runToIdle, runToIdle]
  have hi := hR.started i hp h
  have hn : callBound (Machine.started t i) = callBound (Machine.started s i) := by
    rw [callBound, callBound, hR.env hi, hR.params hi]
  rw [hn]
  exact hR.runOperation _ hi

end

/-! ### The record is not read -/

/-- The state with an older record before its own. -/
def prependRecord (cs : List Call) (ds : List Completion) (s : State) : State :=
  { s with calls := cs ++ s.calls, completions := ds ++ s.completions }

section
variable (cs : List Call) (ds : List Completion) (s : State)

@[simp] theorem prependRecord_params : (prependRecord cs ds s).params = s.params := rfl
@[simp] theorem prependRecord_phase : (prependRecord cs ds s).phase = s.phase := rfl
@[simp] theorem prependRecord_regs : (prependRecord cs ds s).regs = s.regs := rfl
@[simp] theorem prependRecord_env : (prependRecord cs ds s).env = s.env := rfl

theorem present_prependRecord (op : Op) (v : Result) (st : Status) :
    present op v st (prependRecord cs ds s) = prependRecord cs ds (present op v st s) := by
  simp [present, prependRecord]

theorem complete_prependRecord (v : Result) (st : Status) :
    complete v st (prependRecord cs ds s) = prependRecord cs ds (complete v st s) := by
  simp [complete, present, prependRecord]

theorem record_prependRecord (c : Call) :
    record c (prependRecord cs ds s) = prependRecord cs ds (record c s) := by
  simp [record, prependRecord]

theorem chanFlush_prependRecord : chanFlush (prependRecord cs ds s) = prependRecord cs ds (chanFlush s) :=
  record_prependRecord cs ds { s with env := (chanFlush s).env } _

theorem chanWrite_prependRecord (b : U8) :
    chanWrite b (prependRecord cs ds s) = prependRecord cs ds (chanWrite b s) :=
  record_prependRecord cs ds { s with env := (chanWrite b s).env } _

theorem chanAvail_prependRecord : chanAvail (prependRecord cs ds s) = prependRecord cs ds (chanAvail s) :=
  record_prependRecord cs ds _ _

theorem chanDelay_prependRecord (us : Nat) :
    chanDelay us (prependRecord cs ds s) = prependRecord cs ds (chanDelay us s) :=
  record_prependRecord cs ds _ _

theorem readDone_prependRecord (b : U8) :
    readDone b (prependRecord cs ds s) = prependRecord cs ds (readDone b s) :=
  record_prependRecord cs ds { s with env := { s.env with rx := s.env.rx.tail } } _

theorem finishListening_prependRecord (st : Status) :
    finishListening st (prependRecord cs ds s) = prependRecord cs ds (finishListening st s) := by
  simp [finishListening, complete_prependRecord, apply_ite (prependRecord cs ds)]

theorem finishSending_prependRecord :
    finishSending (prependRecord cs ds s) = prependRecord cs ds (finishSending s) := by
  unfold finishSending
  rw [complete_prependRecord, apply_ite (prependRecord cs ds)]
  rfl

theorem sendByte_prependRecord : sendByte (prependRecord cs ds s) = prependRecord cs ds (sendByte s) := by
  unfold sendByte
  rw [chanWrite_prependRecord, apply_ite (prependRecord cs ds), ← finishSending_prependRecord]
  rfl

theorem drainTest_prependRecord : drainTest (prependRecord cs ds s) = prependRecord cs ds (drainTest s) := by
  unfold drainTest
  rw [chanAvail_prependRecord, apply_ite (prependRecord cs ds)]
  rfl

theorem startPoll_prependRecord : startPoll (prependRecord cs ds s) = prependRecord cs ds (startPoll s) := by
  unfold startPoll
  rw [chanDelay_prependRecord]
  rfl

theorem pollTest_prependRecord : pollTest (prependRecord cs ds s) = prependRecord cs ds (pollTest s) := by
  unfold pollTest
  rw [chanAvail_prependRecord, apply_ite (prependRecord cs ds), apply_ite (prependRecord cs ds)]
  rfl

theorem pollAgain_prependRecord : pollAgain (prependRecord cs ds s) = prependRecord cs ds (pollAgain s) := by
  unfold pollAgain
  rw [chanDelay_prependRecord]
  rfl

theorem takeByte_prependRecord (b : U8) :
    takeByte b (prependRecord cs ds s) = prependRecord cs ds (takeByte b s) := by
  unfold takeByte
  rw [apply_ite (prependRecord cs ds), ← finishListening_prependRecord]
  rfl

theorem expire_prependRecord : expire (prependRecord cs ds s) = prependRecord cs ds (expire s) :=
  finishListening_prependRecord cs ds { s with regs := { s.regs with raw := sentinel64 } } _

theorem afterCall_prependRecord : afterCall (prependRecord cs ds s) = prependRecord cs ds (afterCall s) := by
  unfold afterCall
  rw [prependRecord_phase, prependRecord_regs, prependRecord_env]
  split
  · rw [chanFlush_prependRecord]; rfl
  · exact sendByte_prependRecord cs ds s
  · rw [chanFlush_prependRecord]; rfl
  · exact drainTest_prependRecord cs ds s
  · rw [readDone_prependRecord]; rfl
  · exact startPoll_prependRecord cs ds s
  · exact pollTest_prependRecord cs ds s
  · exact pollAgain_prependRecord cs ds s
  · rw [readDone_prependRecord, takeByte_prependRecord]
  · rfl

/-- A start writes into the record at most one completion, after those that are there. -/
theorem started_prependRecord (i : Instr) :
    started (prependRecord cs ds s) i = prependRecord cs ds (started s i) := by
  cases i with
  | byteCRC | wordCRC | startSeed | reverseBytes | encodeWrite | encodeRequest | decodeResponse =>
    exact present_prependRecord cs ds s _ _ _
  | write c a r v =>
    cases c
    · exact complete_prependRecord cs ds (captureWrite false a r v s) _ _
    · rfl
  | request c a r =>
    cases c
    · exact complete_prependRecord cs ds (captureRequest false a r s) _ _
    · rfl
  | awaitReply c =>
    cases c
    · exact complete_prependRecord cs ds (captureAwait false s) _ _
    · rfl
  | read c a r =>
    cases c
    · exact complete_prependRecord cs ds (captureRead false a r s) _ _
    · rfl
  | writeDatagram | requestDatagram | responseDatagram => rfl

/-- A block does the same whatever its older record is. -/
theorem simulation_prependRecord : Simulation fun s t => t = prependRecord cs ds s where
  phase := by rintro s _ rfl; rfl
  env := by rintro s _ rfl; rfl
  params := by rintro s _ rfl; rfl
  reading := by rintro s _ rfl; rfl
  elapse := by rintro s _ rfl; rfl
  applyReset := by rintro s _ rfl; rfl
  afterCall := by rintro s _ rfl; exact afterCall_prependRecord cs ds s
  expire := by rintro s _ - rfl; exact expire_prependRecord cs ds s
  started := by rintro s _ i - rfl; exact started_prependRecord cs ds s i

end

/-- Settles O53: the block beside the empty record simulates the block with its older record before it. -/
theorem recordsAreNotRead : Obligations.RecordsAreNotRead := by
  intro i s t hp h
  have hs : s = prependRecord s.calls s.completions { s with calls := [], completions := [] } := by
    simp [prependRecord]
  have hk := (simulation_prependRecord s.calls s.completions).exec (s := { s with calls := [], completions := [] })
    hp hs i
  rw [h] at hk
  generalize exec i s = o at hk
  cases hk with
  | next e => rw [e]; rfl

end Sys2Proof.Machine

/-! ### Dead registers are not seen

Which registers are live in each phase (10_state.md R16), and that two blocks which differ in dead ones do the same. -/

namespace Sys2Proof.Machine

/-- The registers `g` with those that are dead in the phase taken from `d`. Live are OP in every BUSY phase, DGRAM, TXN and
TXI while sending, CNT from the end of the turnaround delay, RAW and RXI while collecting; in IDLE none is. -/
def Regs.withDead : Phase → Regs → Regs → Regs
  | .idle, _, d => d
  | .sending, g, d => { d with op := g.op, dgram := g.dgram, txn := g.txn, txi := g.txi, point := g.point }
  | .draining, g, d => { d with op := g.op, point := g.point }
  | .waiting, g, d => { d with op := g.op, cnt := if g.point = .first then d.cnt else g.cnt, point := g.point }
  | .complete, g, d => { d with op := g.op, raw := g.raw, rxi := g.rxi }
  | .timedOut, g, d => { d with op := g.op }

/-- The two states differ in dead registers at most. -/
def SameButDead (s t : State) : Prop := t = { s with regs := Regs.withDead s.phase s.regs t.regs }

theorem sameButDead_ite {c : Prop} [Decidable c] {s s' t t' : State} (ht : c → SameButDead s s')
    (he : ¬c → SameButDead t t') : SameButDead (if c then s else t) (if c then s' else t') := by
  split
  · exact ht ‹_›
  · exact he ‹_›

theorem sameButDead_idle_iff {s t : State} (h : s.phase = .idle) : SameButDead s t ↔ t = { s with regs := t.regs } := by
  simp [SameButDead, h, Regs.withDead]

section
variable (s : State) (d : Regs)

theorem sameButDead_finishSending :
    SameButDead (finishSending s) (finishSending { s with regs := Regs.withDead .sending s.regs d }) :=
  sameButDead_ite (fun _ => rfl) (fun _ => rfl)

theorem sameButDead_finishListening (st : Status) :
    SameButDead (finishListening st s) (finishListening st { s with regs := Regs.withDead .complete s.regs d }) :=
  sameButDead_ite (fun _ => rfl) (fun _ => rfl)

theorem sameButDead_sendByte (hp : s.phase = .sending) :
    SameButDead (sendByte s) (sendByte { s with regs := Regs.withDead .sending s.regs d }) := by
  obtain ⟨p, ph, g, e, ib, cs, ds⟩ := s
  obtain rfl : ph = .sending := hp
  exact sameButDead_ite (fun _ => rfl) (fun _ => sameButDead_finishSending _ d)

theorem sameButDead_drainTest (hp : s.phase = .draining) :
    SameButDead (drainTest s) (drainTest { s with regs := Regs.withDead .draining s.regs d }) := by
  obtain ⟨p, ph, g, e, ib, cs, ds⟩ := s
  obtain rfl : ph = .draining := hp
  exact sameButDead_ite (fun _ => rfl) (fun _ => rfl)

theorem sameButDead_takeByte (b : U8) (hp : s.phase = .complete) :
    SameButDead (takeByte b s) (takeByte b { s with regs := Regs.withDead .complete s.regs d }) := by
  obtain ⟨p, ph, g, e, ib, cs, ds⟩ := s
  obtain rfl : ph = .complete := hp
  exact sameButDead_ite (fun _ => rfl) (fun _ => sameButDead_finishListening _ d _)

end

theorem sameButDead_afterCall {s t : State} (h : SameButDead s t) : SameButDead (afterCall s) (afterCall t) := by
  rw [SameButDead] at h
  generalize t.regs = d at h
  subst h
  obtain ⟨p, ph, ⟨op, addr, reg, value, cp, dgram, txn, txi, cnt, raw, rxi, point⟩, e, ib, cs, ds⟩ := s
  cases ph with
  | idle => rfl
  | timedOut => rfl
  | sending =>
    cases point with
    | first => rfl
    | test | act => exact sameButDead_sendByte _ d rfl
  | draining =>
    cases point with
    | first | act => rfl
    | test => exact sameButDead_drainTest _ d rfl
  | waiting =>
    cases point with
    | first | act => rfl
    | test => exact sameButDead_ite (fun _ => rfl) fun _ => sameButDead_ite (fun _ => rfl) (fun _ => rfl)
  | complete => exact sameButDead_takeByte _ d _ rfl

theorem sameButDead_expire {s t : State} (hp : s.phase = .timedOut) (h : SameButDead s t) :
    SameButDead (expire s) (expire t) := by
  rw [SameButDead, hp] at h
  generalize t.regs = d at h
  subst h
  exact sameButDead_ite (fun _ => rfl) (fun _ => rfl)

theorem sameButDead_started {s t : State} (i : Instr) (hp : s.phase = .idle) (h : SameButDead s t) :
    SameButDead (started s i) (started t i) := by
  rw [sameButDead_idle_iff hp] at h
  generalize t.regs = d at h
  subst h
  obtain ⟨p, ph, g, e, ib, cs, ds⟩ := s
  obtain rfl : ph = .idle := hp
  cases i with
  | write c a r v => cases c <;> rfl
  | request c a r => cases c <;> rfl
  | awaitReply c => cases c <;> rfl
  | read c a r => cases c <;> rfl
  | byteCRC | wordCRC | startSeed | reverseBytes | encodeWrite | encodeRequest | decodeResponse
  | writeDatagram | requestDatagram | responseDatagram => rfl

theorem sameButDead_reading {s t : State} (h : SameButDead s t) : reading t ↔ reading s := by
  rw [SameButDead] at h
  rw [h]
  cases hp : s.phase <;> simp [reading, hp, Regs.withDead]

/-- Blocks that differ in dead registers do the same. -/
theorem simulation_sameButDead : Simulation SameButDead where
  phase := fun h => by rw [h]
  env := fun h => by rw [h]
  params := fun h => by rw [h]
  reading := sameButDead_reading
  elapse := fun h => congrArg elapse h
  applyReset := fun {s t} h => (sameButDead_idle_iff rfl).mpr (by rw [SameButDead] at h; rw [h]; rfl)
  afterCall := sameButDead_afterCall
  expire := sameButDead_expire
  started := sameButDead_started

/-- Settles O49: registers are dead in IDLE, and what is dead is not seen outside. -/
theorem deadRegistersAreNotSeen : Obligations.DeadRegistersAreNotSeen := by
  intro i s g hp
  have h : SameButDead s { s with regs := g } := (sameButDead_idle_iff hp).mpr rfl
  have hk := simulation_sameButDead.exec hp h i
  generalize exec i s = o, exec i { s with regs := g } = o' at hk
  cases hk with
  | next e => rw [e]; rfl
  | fault f => rfl
  | refused r => rfl

/-! ### Codes, the step of an idle block, the pure operations, reset -/

/-- Settles O8: the three lists of codes compute, and bit 3 is read off operation by operation. -/
theorem codesAsNumbered : Obligations.CodesAsNumbered :=
  ⟨rfl, rfl, rfl, fun op => by cases op <;> decide⟩

/-- Settles O9: the completion of a pure operation is the whole step. -/
theorem pureOperationsComplete : Obligations.PureOperationsComplete := fun _ h =>
  ⟨fun _ _ => completePure_idle h, fun _ _ => completePure_idle h, fun _ => completePure_idle h,
    fun _ => completePure_idle h, fun _ _ _ => completePure_idle h, fun _ _ => completePure_idle h,
    fun _ => completePure_idle h⟩

theorem runFrame_ok {s : State} {f : Frame} {i : Instr} (h : decode s.params f = .ok i) : runFrame f s = exec i s := by
  simp [runFrame, h]

theorem runFrame_error {s : State} {f : Frame} {why : Reject} (h : decode s.params f = .error why) :
    runFrame f s = undecoded f why s := by
  simp [runFrame, h]

/-- Settles O6: the oldest item presented is fetched and run, noise is received, a BUSY block ticks. -/
theorem stepRunsDecoded : Obligations.StepRunsDecoded := by
  refine ⟨?_, ?_, fun s => step_busy, ?_⟩
  · intro s f rest i hp hi hd
    exact (step_fetch hp hi).trans (runFrame_ok hd)
  · intro s dir bytes rest why hp hi hd
    exact (step_fetch hp hi).trans (runFrame_error hd)
  · intro s nbits w i hd
    exact (step_fetch (s := s.withFetchWord nbits w) rfl rfl).trans (runFrame_ok hd)

/-- Settles O45: in IDLE the invariant asks nothing, and with an empty record the other two compute. -/
theorem resetIsIdle : Obligations.ResetIsIdle :=
  ⟨rfl, rfl, inv_of_idle rfl, rfl, rfl, rfl, rfl, rfl⟩

end Sys2Proof.Machine

/-! ### The branches of a tick

Each function that a returned call runs, as a list of its branches: later proofs go through these. -/

namespace Sys2Proof.Machine

/-- The byte in turn has been handed over and TXI counts it (42_transport_driver.md R102). -/
def byteSent (s : State) : State :=
  { chanWrite (byteAt s.regs.dgram s.regs.txi) s with regs := { s.regs with txi := s.regs.txi + 1 } }

/-- The byte `b` has been put into RAW and RXI counts it (R98). -/
def byteTaken (b : U8) (s : State) : State :=
  { s with regs := { s.regs with raw := setByte s.regs.raw s.regs.rxi b, rxi := s.regs.rxi + 1 } }

theorem sendByte_cases (s : State) :
    (s.regs.txi + 1 < s.regs.txn ∧ sendByte s = byteSent s) ∨
    (s.regs.txn ≤ s.regs.txi + 1 ∧ s.regs.op = .read ∧ sendByte s = enterDraining (byteSent s)) ∨
    (s.regs.txn ≤ s.regs.txi + 1 ∧ s.regs.op ≠ .read ∧ sendByte s = complete .none .ok (byteSent s)) := by
  by_cases hn : s.regs.txi + 1 < s.regs.txn
  · exact .inl ⟨hn, if_pos hn⟩
  · have hs : sendByte s = finishSending (byteSent s) := if_neg hn
    rcases finishSending_spec (byteSent s) with ⟨ho, e⟩ | ⟨ho, e⟩
    · exact .inr (.inl ⟨Nat.le_of_not_lt hn, ho, hs.trans e⟩)
    · exact .inr (.inr ⟨Nat.le_of_not_lt hn, ho, hs.trans e⟩)

theorem drainTest_cases (s : State) :
    (s.env.rx = [] ∧ drainTest s = enterWaiting (chanAvail s)) ∨
    (s.env.rx ≠ [] ∧ drainTest s = setPoint .act (chanAvail s)) := by
  by_cases h : s.env.rx = []
  · exact .inl ⟨h, if_pos (List.length_eq_zero_iff.mpr h)⟩
  · exact .inr ⟨h, if_neg (mt List.length_eq_zero_iff.mp h)⟩

theorem pollTest_cases (s : State) :
    (8 ≤ s.env.rx.length ∧ pollTest s = enterComplete (chanAvail s)) ∨
    (s.env.rx.length < 8 ∧ s.regs.cnt = 0 ∧ pollTest s = enterTimedOut (chanAvail s)) ∨
    (s.env.rx.length < 8 ∧ s.regs.cnt ≠ 0 ∧ pollTest s = setPoint .act (chanAvail s)) := by
  by_cases h : 8 ≤ s.env.rx.length
  · exact .inl ⟨h, if_pos h⟩
  · by_cases hc : s.regs.cnt = 0
    · exact .inr (.inl ⟨Nat.lt_of_not_le h, hc, (if_neg h).trans (if_pos hc)⟩)
    · exact .inr (.inr ⟨Nat.lt_of_not_le h, hc, (if_neg h).trans (if_neg hc)⟩)

theorem takeByte_cases (b : U8) (s : State) :
    (s.regs.rxi + 1 < 8 ∧ takeByte b s = byteTaken b s) ∨
    (8 ≤ s.regs.rxi + 1 ∧ takeByte b s = finishListening .ok (byteTaken b s)) := by
  by_cases h : s.regs.rxi + 1 < 8
  · exact .inl ⟨h, if_pos h⟩
  · exact .inr ⟨Nat.le_of_not_lt h, if_neg h⟩

/-- The end of a lone `awaitReply` presents RAW. -/
theorem finishListening_awaitReply {s : State} (st : Status) (h : s.regs.op = .awaitReply) :
    finishListening st s = complete (.u64 s.regs.raw) st s := by
  simp [finishListening, h]

/-- The end of a timeout (42_transport_driver.md R94): RAW is SENTINEL64, and the operation completes. -/
theorem expire_spec (s : State) :
    ∃ v st, expire s = complete v st { s with regs := { s.regs with raw := sentinel64 } } :=
  finishListening_spec .replyTimeout _

theorem expire_awaitReply {s : State} (h : s.regs.op = .awaitReply) :
    expire s = complete (.u64 sentinel64) .replyTimeout { s with regs := { s.regs with raw := sentinel64 } } :=
  finishListening_awaitReply (s := { s with regs := { s.regs with raw := sentinel64 } }) .replyTimeout h

/-! ### A primitive call's effect on the channel -/

/-- What arrived during a call counts as there before it: the effect is the same, seen from before the call's time. -/
theorem CallEffect.of_elapse {c : Call} {s t : State} (h : CallEffect c [] (elapse s) t) :
    CallEffect c s.env.slot.arrivals s t := by
  cases c <;> simpa [CallEffect] using h

/-- A call that returned is recorded, has its contract's effect (20_memory.md R35, R36), and moves nothing else outside
the block. -/
theorem Returned.callEffect {s t : State} (h : Returned s t) :
    t.env.script = s.env.script ∧ t.env.rest = s.env.rest ∧ t.inbox = s.inbox ∧
    ∃ c, t.calls = s.calls ++ [c] ∧ CallEffect c [] s t := by
  cases h with
  | sendFlush | listenFlush => exact ⟨rfl, rfl, rfl, .flush, rfl, by simp [CallEffect]⟩
  | sendByte =>
    rcases sendByte_cases s with ⟨-, e⟩ | ⟨-, -, e⟩ | ⟨-, -, e⟩ <;> rw [e] <;>
      exact ⟨rfl, rfl, rfl, .write _, rfl, by simp [CallEffect, byteSent]⟩
  | drainTest =>
    rcases drainTest_cases s with ⟨-, e⟩ | ⟨-, e⟩ <;> rw [e] <;>
      exact ⟨rfl, rfl, rfl, .avail s.env.rx.length, rfl, by simp [CallEffect]⟩
  | pollTest =>
    rcases pollTest_cases s with ⟨-, e⟩ | ⟨-, -, e⟩ | ⟨-, -, e⟩ <;> rw [e] <;>
      exact ⟨rfl, rfl, rfl, .avail s.env.rx.length, rfl, by simp [CallEffect]⟩
  | startPoll | pollAgain =>
    exact ⟨rfl, rfl, rfl, .delay _, rfl, by simp [CallEffect, Machine.startPoll, Machine.pollAgain]⟩
  | drainByte b _ _ hb =>
    exact ⟨rfl, rfl, rfl, .read b, rfl, by simp [CallEffect, readDone, List.cons_head?_tail hb]⟩
  | takeByte b _ hb =>
    have hr : CallEffect (.read b) [] s (readDone b s) := by
      simp [CallEffect, readDone, List.cons_head?_tail hb]
    rcases takeByte_cases b (readDone b s) with ⟨-, e⟩ | ⟨-, e⟩
    · rw [e]
      exact ⟨rfl, rfl, rfl, .read b, rfl, hr⟩
    · obtain ⟨v, st, e'⟩ := finishListening_spec .ok (byteTaken b (readDone b s))
      rw [e, e']
      exact ⟨rfl, rfl, rfl, .read b, rfl, hr⟩

/-- Settles O50: a tick waits for its call, is cut by a reset, or the call returned and had its effect. -/
theorem eachCallHasItsEffect : Obligations.EachCallHasItsEffect := by
  intro s t hb ht h
  rcases tick_cases hb h with ⟨hp, -⟩ | ⟨-, ⟨he, rfl⟩ | ⟨he, rfl⟩ | ⟨he, hr⟩⟩
  · exact absurd hp ht
  · exact ⟨rfl, rfl, rfl, by simp [he], fun _ => ⟨rfl, rfl, rfl, rfl, Env.elapse_stream _⟩⟩
  · exact ⟨rfl, rfl, rfl, by simp [he], fun _ => ⟨rfl, rfl, rfl, rfl, Env.elapse_stream _⟩⟩
  · obtain ⟨hs, hrest, hi, c, hc, hce⟩ := hr.callEffect
    exact ⟨hs, hrest, hi, fun _ => ⟨c, hc, hce.of_elapse⟩, fun hn => absurd he hn⟩

/-! ### Bytes and calls are accounted for -/

/-- `t` is what comes of `s` when the block stands in a call for `n` slots of the channel's script and the calls `l` return:
every byte and every call is accounted for (20_memory.md R30, R35, R36, R45). -/
structure Accounted (l : List Call) (n : Nat) (s t : State) : Prop where
  calls : t.calls = s.calls ++ l
  answered : l.length = (slotsOf n s.env).countP Slot.answers
  sent : t.env.txSent ++ t.env.txPending = s.env.txSent ++ s.env.txPending ++ writesOf l
  taken : readsOf l ++ t.env.rx = s.env.rx ++ arrivalsOf n s.env
  script : t.env.script = s.env.script.drop n
  rest : t.env.rest = s.env.rest

/-- The coming arrivals depend on the script and the rest alone. -/
theorem arrivalsOf_congr (n : Nat) {e e' : Env} (h : e.script = e'.script) (hr : e.rest = e'.rest) :
    arrivalsOf n e = arrivalsOf n e' := by
  rw [arrivalsOf, arrivalsOf, slotsOf_congr n h hr]

theorem Accounted.of_unchanged {s t : State} (hc : t.calls = s.calls) (he : t.env = s.env) : Accounted [] 0 s t := by
  constructor <;> simp [hc, he, writesOf, readsOf]

theorem Accounted.trans {l l' : List Call} {m n : Nat} {s t u : State} (h : Accounted l m s t)
    (h' : Accounted l' n t u) : Accounted (l ++ l') (m + n) s u where
  calls := by rw [h'.calls, h.calls, List.append_assoc]
  answered := by
    rw [slotsOf_add, List.countP_append, List.length_append, h.answered, h'.answered,
      slotsOf_congr n (e := t.env) (e' := { s.env with script := s.env.script.drop m }) h.script h.rest]
  sent := by rw [h'.sent, h.sent, writesOf_append, List.append_assoc]
  taken := by
    rw [readsOf_append, List.append_assoc, h'.taken, ← List.append_assoc, h.taken, arrivalsOf_add,
      arrivalsOf_congr n (e := t.env) (e' := { s.env with script := s.env.script.drop m }) h.script h.rest,
      List.append_assoc]
  script := by rw [h'.script, h.script, List.drop_drop]
  rest := h'.rest.trans h.rest

theorem CallEffect.sent {c : Call} {a : List U8} {s t : State} (h : CallEffect c a s t) :
    t.env.txSent ++ t.env.txPending = s.env.txSent ++ s.env.txPending ++ writesOf [c] := by
  cases c <;> simp_all [CallEffect, writesOf]

theorem CallEffect.taken {c : Call} {a : List U8} {s t : State} (h : CallEffect c a s t) :
    readsOf [c] ++ t.env.rx = s.env.rx ++ a := by
  cases c <;> simp_all [CallEffect, readsOf]

/-- Every tick of a BUSY block is accounted for: it stood in one call, or ended a timeout. -/
theorem tick_accounted {s t : State} (hb : s.phase ≠ .idle) (h : tick s = .next t) : ∃ l n, Accounted l n s t := by
  by_cases ht : s.phase = .timedOut
  · rw [tick_timedOut ht] at h
    cases h
    obtain ⟨v, st, e⟩ := expire_spec s
    rw [e]
    exact ⟨[], 0, .of_unchanged rfl rfl⟩
  · obtain ⟨hs, hrest, -, hret, hnot⟩ := eachCallHasItsEffect s t hb ht h
    have hs : t.env.script = s.env.script.drop 1 := by rw [hs, List.drop_one]
    by_cases he : s.env.slot.ending = .returns
    · obtain ⟨c, hc, hce⟩ := hret he
      exact ⟨[c], 1, hc, by simp [slotsOf_succ, Slot.answers, he], hce.sent, by simpa [arrivalsOf_succ] using hce.taken,
        hs, hrest⟩
    · obtain ⟨hc, -, -, hrx, htx⟩ := hnot he
      exact ⟨[], 1, by simp [hc], by simp [slotsOf_succ, Slot.answers, he], by simpa [writesOf] using htx,
        by simpa [arrivalsOf_succ, readsOf] using hrx, hs, hrest⟩

theorem runOperation_accounted {n : Nat} {s t : State} (h : runOperation n s = .next t) : ∃ l n, Accounted l n s t :=
  runOperation_induction (P := fun u => ∃ l n, Accounted l n s u)
    (fun _ _ hb ⟨l, m, hu⟩ ht =>
      let ⟨l', m', hv⟩ := tick_accounted hb ht
      ⟨l ++ l', m + m', hu.trans hv⟩)
    ⟨[], 0, .of_unchanged rfl rfl⟩ h

/-! ### Acceptance of an instruction -/

/-- An operation's start touches nothing of the channel. -/
theorem started_env (s : State) {i : Instr} (h : isOperation i = true) : (started s i).env = s.env := by
  cases i with
  | byteCRC | wordCRC | startSeed | reverseBytes | encodeWrite | encodeRequest | decodeResponse => rfl
  | write c | request c | awaitReply c | read c => cases c <;> rfl
  | writeDatagram | requestDatagram | responseDatagram => cases h

/-- Every instruction's start calls no primitive. -/
theorem started_calls (s : State) (i : Instr) : (started s i).calls = s.calls := by
  unfold started
  split <;> rfl

/-- Every instruction's start hands over nothing. -/
theorem started_stream (s : State) (i : Instr) :
    (started s i).env.txSent = s.env.txSent ∧ (started s i).env.txPending = s.env.txPending := by
  unfold started
  split <;> exact ⟨rfl, rfl⟩

theorem opOf_of_isOperation {i : Instr} (h : isOperation i = true) : ∃ op, opOf i = some op := by
  cases i with
  | writeDatagram | requestDatagram | responseDatagram => cases h
  | byteCRC | wordCRC | startSeed | reverseBytes | encodeWrite | encodeRequest | decodeResponse
  | write | request | awaitReply | read => exact ⟨_, rfl⟩

theorem completePure_busy {op : Op} {v : Result} {st : Status} {s : State} (hb : s.phase ≠ .idle) :
    completePure op v st s = .refused (.busy op) := accept_busy hb

/-- A BUSY block refuses every operation by name (10_state.md R21, D13). -/
theorem exec_busy {i : Instr} {op : Op} {s : State} (ho : opOf i = some op) (hb : s.phase ≠ .idle) :
    exec i s = .refused (.busy op) := by
  cases i with
  | writeDatagram | requestDatagram | responseDatagram => cases ho
  | byteCRC | wordCRC | startSeed | reverseBytes | encodeWrite | encodeRequest | decodeResponse =>
    cases ho
    exact completePure_busy hb
  | write | request | awaitReply | read =>
    cases ho
    simp only [exec, execWrite, execRequest, execAwaitReply, execRead, accept_busy hb]

/-- A datagram on the wire starts and ends at once, in every phase. -/
theorem exec_datagram {i : Instr} (h : isOperation i = false) (s : State) : exec i s = .next (started s i) := by
  cases i with
  | writeDatagram | requestDatagram | responseDatagram => rfl
  | byteCRC | wordCRC | startSeed | reverseBytes | encodeWrite | encodeRequest | decodeResponse
  | write | request | awaitReply | read => cases h

/-- An operation that is accepted is the run of its start, and the block was idle. -/
theorem exec_operation {i : Instr} {s t : State} (hi : isOperation i = true) (h : exec i s = .next t) :
    s.phase = .idle ∧ runToIdle (started s i) = .next t := by
  by_cases hp : s.phase = .idle
  · exact ⟨hp, exec_eq_runToIdle_started hp i ▸ h⟩
  · obtain ⟨op, ho⟩ := opOf_of_isOperation hi
    rw [exec_busy ho hp] at h
    cases h

theorem exec_accounted {i : Instr} {s t : State} (hi : isOperation i = true) (h : exec i s = .next t) :
    ∃ l n, Accounted l n s t := by
  obtain ⟨l, n, ha⟩ := runOperation_accounted (exec_operation hi h).2
  exact ⟨[] ++ l, 0 + n, (Accounted.of_unchanged (started_calls s i) (started_env s hi)).trans ha⟩

/-- Settles O51: the ticks of an operation are accounted for one by one, and the accounts add up. -/
theorem bytesAreConserved : Obligations.BytesAreConserved := by
  intro i s t hi h
  obtain ⟨l, n, ha⟩ := exec_accounted hi h
  refine ⟨l, n, ha.calls, ha.answered, ?_, fun hall => ?_, ha.sent, ha.taken, ha.script, ha.rest⟩
  · exact ha.answered.trans_le (List.countP_le_length.trans_eq (slotsOf_length n s.env))
  · rw [ha.answered, List.countP_eq_length.mpr (List.all_eq_true.mp hall), slotsOf_length]

/-! ### The transmit stream is the recorded writes -/

theorem streamRecorded_iff (s : State) :
    s.streamRecorded = true ↔ s.env.txSent ++ s.env.txPending = writesOf s.calls := by
  simp [State.streamRecorded]

theorem Accounted.streamRecorded {l : List Call} {n : Nat} {s t : State} (h : Accounted l n s t)
    (hs : s.streamRecorded = true) : t.streamRecorded = true := by
  rw [streamRecorded_iff] at hs ⊢
  rw [h.sent, hs, h.calls, writesOf_append]

theorem streamRecorded_started {s : State} (i : Instr) (h : s.streamRecorded = true) :
    (started s i).streamRecorded = true := by
  obtain ⟨hs, hp⟩ := started_stream s i
  rw [streamRecorded_iff] at h ⊢
  rw [hs, hp, started_calls, h]

/-- Settles O55: every tick is accounted for, and what is not a tick neither calls nor hands over. -/
theorem stepKeepsTheTransmitStream : Obligations.StepKeepsTheTransmitStream := by
  intro s t h0 h
  refine step_induction (P := fun u => u.streamRecorded = true) ?_ ?_ ?_ ?_ h0 h
  · intro u v hb hu ht
    obtain ⟨l, n, ha⟩ := tick_accounted hb ht
    exact ha.streamRecorded hu
  · exact fun u i _ hu => streamRecorded_started i hu
  · exact fun u rest _ hu => hu
  · exact fun u bytes _ hu => hu

/-! ### Transmit before receive -/

/-- The listen's flush has returned and the listen goes on: the receive part of an operation (20_memory.md R40). -/
def receiving (s : State) : Prop :=
  match s.phase with
  | .idle | .sending => False
  | .draining => s.regs.point ≠ .first
  | .waiting | .complete | .timedOut => True

theorem not_receiving_of_idle {s : State} (h : s.phase = .idle) : ¬receiving s := by simp [receiving, h]

theorem not_receiving_of_sending {s : State} (h : s.phase = .sending) : ¬receiving s := by simp [receiving, h]

theorem receiving_draining_iff {s : State} (h : s.phase = .draining) : receiving s ↔ s.regs.point ≠ .first := by
  simp [receiving, h]

theorem receiving_setPoint {s : State} {pt : Point} (hp : s.phase = .draining) (hq : pt ≠ .first) :
    receiving (setPoint pt s) := (receiving_draining_iff (s := setPoint pt s) hp).mpr hq

theorem not_receiving_enterDraining (s : State) : ¬receiving (enterDraining s) :=
  fun hr => (receiving_draining_iff rfl).mp hr rfl

theorem receiving_of_waiting {s : State} (h : s.phase = .waiting) : receiving s := by simp [receiving, h]

theorem receiving_of_complete {s : State} (h : s.phase = .complete) : receiving s := by simp [receiving, h]

theorem receiving_of_timedOut {s : State} (h : s.phase = .timedOut) : receiving s := by simp [receiving, h]

theorem flushedToListen_iff (s : State) : s.flushedToListen = true ↔ (receiving s → s.env.txPending = []) := by
  cases hp : s.phase <;> simp [State.flushedToListen, receiving, hp, imp_iff_not_or]

/-- Where a call that returned stands in its operation (R40, R41): in the transmit part, where it is no receive call; at the
listen's flush, after which nothing is pending; or in the receive part, where it hands nothing over. -/
inductive PartMove (s t : State) : Prop where
  | transmit (hs : ¬receiving s) (ht : ¬receiving t) (c : Call) (hc : t.calls = s.calls ++ [c])
      (hr : readsOf [c] = []) (ha : availsOf [c] = 0)
  | flush (hs : ¬receiving s) (ht : receiving t) (hf : t.env.txPending = []) (hc : t.calls = s.calls ++ [.flush])
  | receive (hs : receiving s) (ht : receiving t ∨ t.phase = .idle) (hf : t.env.txPending = s.env.txPending) (c : Call)
      (hc : t.calls = s.calls ++ [c]) (hw : writesOf [c] = [])

theorem Returned.partMove {s t : State} (h : Returned s t) : PartMove s t := by
  cases h with
  | sendFlush hp => exact .transmit (not_receiving_of_sending hp) (not_receiving_of_sending hp) .flush rfl rfl rfl
  | sendByte hp =>
    have hs : ¬receiving s := not_receiving_of_sending hp
    rcases sendByte_cases s with ⟨-, e⟩ | ⟨-, -, e⟩ | ⟨-, -, e⟩ <;> rw [e]
    · exact .transmit hs (not_receiving_of_sending hp) (.write _) rfl rfl rfl
    · exact .transmit hs (not_receiving_enterDraining _) (.write _) rfl rfl rfl
    · exact .transmit hs (not_receiving_of_idle rfl) (.write _) rfl rfl rfl
  | listenFlush hp hq =>
    exact .flush (by simp [receiving_draining_iff hp, hq]) (receiving_setPoint hp nofun) rfl rfl
  | drainTest hp hq =>
    have hs : receiving s := (receiving_draining_iff hp).mpr (by simp [hq])
    rcases drainTest_cases s with ⟨-, e⟩ | ⟨-, e⟩ <;> rw [e]
    · exact .receive hs (.inl (receiving_of_waiting rfl)) rfl (.avail _) rfl rfl
    · exact .receive hs (.inl (receiving_setPoint hp nofun)) rfl (.avail _) rfl rfl
  | drainByte b hp hq =>
    have hs : receiving s := (receiving_draining_iff hp).mpr (by simp [hq])
    exact .receive hs (.inl (receiving_setPoint hp nofun)) rfl (.read b) rfl rfl
  | startPoll hp | pollAgain hp =>
    exact .receive (receiving_of_waiting hp) (.inl (receiving_of_waiting hp)) rfl (.delay _) rfl rfl
  | pollTest hp =>
    have hs : receiving s := receiving_of_waiting hp
    rcases pollTest_cases s with ⟨-, e⟩ | ⟨-, -, e⟩ | ⟨-, -, e⟩ <;> rw [e]
    · exact .receive hs (.inl (receiving_of_complete rfl)) rfl (.avail _) rfl rfl
    · exact .receive hs (.inl (receiving_of_timedOut rfl)) rfl (.avail _) rfl rfl
    · exact .receive hs (.inl (receiving_of_waiting hp)) rfl (.avail _) rfl rfl
  | takeByte b hp =>
    have hs : receiving s := receiving_of_complete hp
    rcases takeByte_cases b (readDone b s) with ⟨-, e⟩ | ⟨-, e⟩
    · rw [e]
      exact .receive hs (.inl (receiving_of_complete hp)) rfl (.read b) rfl rfl
    · obtain ⟨v, st, e'⟩ := finishListening_spec .ok (byteTaken b (readDone b s))
      rw [e, e']
      exact .receive hs (.inr rfl) rfl (.read b) rfl rfl

theorem expire_idle (s : State) : (expire s).phase = .idle ∧ (expire s).calls = s.calls := by
  obtain ⟨v, st, e⟩ := expire_spec s
  rw [e]
  exact ⟨rfl, rfl⟩

/-- No instruction starts in its receive part. -/
theorem not_receiving_started {s : State} (hp : s.phase = .idle) (i : Instr) : ¬receiving (started s i) := by
  cases i with
  | byteCRC | wordCRC | startSeed | reverseBytes | encodeWrite | encodeRequest | decodeResponse
  | writeDatagram | requestDatagram | responseDatagram => exact not_receiving_of_idle hp
  | write c | request c | read c =>
    cases c
    · exact not_receiving_of_idle rfl
    · exact not_receiving_of_sending rfl
  | awaitReply c =>
    cases c
    · exact not_receiving_of_idle rfl
    · exact not_receiving_enterDraining _

theorem flushedToListen_of_not_receiving {s : State} (h : ¬receiving s) : s.flushedToListen = true :=
  (flushedToListen_iff s).mpr fun hr => absurd hr h

theorem flushedToListen_tick {s t : State} (hb : s.phase ≠ .idle) (h : s.flushedToListen = true)
    (ht : tick s = .next t) : t.flushedToListen = true := by
  rcases tick_cases hb ht with ⟨-, rfl⟩ | ⟨-, ⟨-, rfl⟩ | ⟨-, rfl⟩ | ⟨-, hr⟩⟩
  · exact flushedToListen_of_not_receiving (not_receiving_of_idle (expire_idle s).1)
  · rw [flushedToListen_iff] at h ⊢
    intro hr
    simp [h hr]
  · exact flushedToListen_of_not_receiving (not_receiving_of_idle rfl)
  · rw [flushedToListen_iff] at h ⊢
    cases hr.partMove with
    | transmit _ hn => exact fun hr => absurd hr hn
    | flush _ _ hf => exact fun _ => hf
    | receive hs _ hf =>
      intro _
      rw [hf]
      simp [h hs]

/-- Settles O56: the receive part is entered by the listen's flush, and nothing in it hands a byte over. -/
theorem stepKeepsTransmitBeforeReceive : Obligations.StepKeepsTransmitBeforeReceive := fun _ _ h0 h =>
  step_induction (P := fun u => u.flushedToListen = true) (fun _ _ hb hu ht => flushedToListen_tick hb hu ht)
    (fun _ i hp _ => flushedToListen_of_not_receiving (not_receiving_started hp i))
    (fun _ _ hp _ => flushedToListen_of_not_receiving (not_receiving_of_idle hp))
    (fun _ _ hp _ => flushedToListen_of_not_receiving (not_receiving_of_idle hp)) h0 h

/-! ### Half duplex -/

/-- The calls made since `cs` are a transmit part and then a receive part (R40, R41); the receive part is empty until the
listen's flush has returned, and begins with that flush. -/
def SplitCalls (cs : List Call) (u : State) : Prop :=
  ∃ tx rx : List Call, u.calls = cs ++ tx ++ rx ∧ readsOf tx = [] ∧ availsOf tx = 0 ∧ writesOf rx = [] ∧
    (rx = [] ∨ rx.head? = some .flush) ∧ (receiving u → rx ≠ []) ∧ (u.phase ≠ .idle → ¬receiving u → rx = [])

/-- A block that has not reached its receive part has made transmit calls alone. -/
theorem SplitCalls.of_transmit {cs tx : List Call} {u : State} (hc : u.calls = cs ++ tx) (hr : readsOf tx = [])
    (ha : availsOf tx = 0) (hu : ¬receiving u) : SplitCalls cs u :=
  ⟨tx, [], by simp [hc], hr, ha, rfl, .inl rfl, fun h => absurd h hu, fun _ _ => rfl⟩

/-- The split is not changed by what makes no call and does not move between the parts, the end of the operation apart. -/
theorem SplitCalls.of_calls_eq {cs : List Call} {u v : State} (h : SplitCalls cs u) (hc : v.calls = u.calls)
    (hv : v.phase = .idle ∨ (u.phase ≠ .idle ∧ (receiving v ↔ receiving u))) : SplitCalls cs v := by
  obtain ⟨tx, rx, hu, hr, ha, hw, hh, hin, hout⟩ := h
  refine ⟨tx, rx, hc.trans hu, hr, ha, hw, hh, ?_⟩
  rcases hv with hv | ⟨hb, hv⟩
  · exact ⟨fun hr => absurd hr (not_receiving_of_idle hv), fun hn => absurd hv hn⟩
  · rw [hv]
    exact ⟨hin, fun _ => hout hb⟩

theorem SplitCalls.returned {cs : List Call} {u v : State} (h : SplitCalls cs u) (hb : u.phase ≠ .idle)
    (hr : Returned u v) : SplitCalls cs v := by
  obtain ⟨tx, rx, hu, hrd, ha, hw, hh, hin, hout⟩ := h
  cases hr.partMove with
  | transmit hn hv c hc hcr hca =>
    obtain rfl := hout hb hn
    exact .of_transmit (tx := tx ++ [c]) (by simp [hc, hu]) (by simp [readsOf_append, hrd, hcr])
      (by simp [availsOf_append, ha, hca]) hv
  | flush hn hv _ hc =>
    obtain rfl := hout hb hn
    exact ⟨tx, [.flush], by simp [hc, hu], hrd, ha, rfl, .inr rfl, fun _ => nofun, fun _ hnr => absurd hv hnr⟩
  | receive hs hv _ c hc hcw =>
    refine ⟨tx, rx ++ [c], by simp [hc, hu], hrd, ha, by simp [writesOf_append, hw, hcw], .inr ?_, by simp, ?_⟩
    · obtain ⟨x, l, rfl⟩ := List.exists_cons_of_ne_nil (hin hs)
      simpa using hh
    · exact fun hni hnr => (hv.elim hnr hni).elim

theorem SplitCalls.tick {cs : List Call} {u v : State} (hb : u.phase ≠ .idle) (h : SplitCalls cs u)
    (ht : tick u = .next v) : SplitCalls cs v := by
  rcases tick_cases hb ht with ⟨-, rfl⟩ | ⟨-, ⟨-, rfl⟩ | ⟨-, rfl⟩ | ⟨-, hr⟩⟩
  · exact h.of_calls_eq (expire_idle u).2 (.inl (expire_idle u).1)
  · exact h.of_calls_eq rfl (.inr ⟨hb, .rfl⟩)
  · exact h.of_calls_eq rfl (.inl rfl)
  · exact (h.of_calls_eq (v := elapse u) rfl (.inr ⟨hb, .rfl⟩)).returned hb hr

/-- Settles O52: an operation starts before its receive part, and every tick keeps the calls split. -/
theorem halfDuplex : Obligations.HalfDuplex := by
  intro i s t h
  cases hi : isOperation i with
  | false =>
    rw [exec_datagram hi] at h
    cases h
    exact ⟨[], [], by simp [started_calls], rfl, rfl, rfl, .inl rfl⟩
  | true =>
    obtain ⟨hp, hrun⟩ := exec_operation hi h
    have h0 : SplitCalls s.calls (started s i) :=
      .of_transmit (tx := []) (by simp [started_calls]) rfl rfl (not_receiving_started hp i)
    obtain ⟨tx, rx, hc, hr, ha, hw, hh, -⟩ :=
      runOperation_induction (P := SplitCalls s.calls) (fun _ _ hb hu => hu.tick hb) h0 hrun
    exact ⟨tx, rx, hc, hr, ha, hw, hh⟩

/-! ### No read of an empty buffer -/

/-- The invariant keeps `ChanRead` off an empty buffer (20_memory.md R36). -/
theorem rx_ne_nil_of_reading {s : State} (h : s.inv = true) (hr : reading s) : s.env.rx ≠ [] := by
  rcases hr with hp | ⟨hp, hq⟩
  · obtain ⟨-, hi, hrx⟩ := (inv_complete_iff hp).mp h
    exact List.ne_nil_of_length_pos (by omega)
  · exact ((inv_draining_iff hp).mp h).2 hq

/-- Every tick of a BUSY block that meets the invariant answers a next state that meets it. -/
theorem tick_progress {s : State} (hb : s.phase ≠ .idle) (h : s.inv = true) : ∃ t, tick s = .next t ∧ t.inv = true := by
  have hn : ∃ t, tick s = .next t := by
    by_cases ht : s.phase = .timedOut
    · exact ⟨_, tick_timedOut ht⟩
    · rw [tick_eq_call hb ht (rx_ne_nil_of_reading h)]
      rcases call_cases s fun s => .next (afterCall s) with ⟨-, e⟩ | ⟨-, e⟩ | ⟨-, e⟩ <;> exact ⟨_, e⟩
  obtain ⟨t, ht⟩ := hn
  exact ⟨t, ht, inv_tick hb h ht⟩

/-- Every instruction answers a next state from every idle state, whatever the channel does. -/
theorem exec_idle_next {s : State} (hp : s.phase = .idle) (i : Instr) : ∃ t, exec i s = .next t ∧ t.inv = true := by
  rw [exec_eq_runToIdle_started hp]
  exact runOperation_progress (P := fun u => u.inv = true) (fun _ hb h => tick_progress hb h) _ (inv_started hp i)

/-- What is no instruction is refused or received, never a fault. -/
theorem undecoded_ne_fault (f : Frame) (why : Reject) (s : State) (e : Fault) : undecoded f why s ≠ .fault e := by
  cases f <;> exact nofun

/-- Settles O44: a BUSY block under the invariant ticks on, and an idle one runs, receives or refuses what is presented. -/
theorem noReadOnEmptyBuffer : Obligations.NoReadOnEmptyBuffer := by
  intro s f h
  by_cases hp : s.phase = .idle
  · cases hi : s.inbox with
    | nil => simp [step, busy_eq_false.mpr hp, fetch, hi]
    | cons fr rest =>
      rw [step_fetch hp hi]
      cases hd : decode s.params fr with
      | ok i =>
        obtain ⟨t, ht, -⟩ := exec_idle_next (s := { s with inbox := rest }) hp i
        rw [runFrame_ok (s := { s with inbox := rest }) hd, ht]
        exact nofun
      | error why =>
        rw [runFrame_error (s := { s with inbox := rest }) hd]
        exact undecoded_ne_fault fr why _ f
  · obtain ⟨t, ht, -⟩ := tick_progress hp h
    rw [step_busy hp, ht]
    exact nofun

end Sys2Proof.Machine

/-! ### The bytes of a reply in RAW

A word by its bits, byte after byte: what `assemble` holds and what `setByte` changes (42_transport_driver.md R98). -/

namespace Sys2Proof.Machine

/-- Bit `i` of the assembled word is bit `i % 8` of byte `i / 8`, the first byte lowest (20_memory.md R33). -/
theorem getLsbD_assemble (w : List U8) {i : Nat} (hi : i < 64) :
    (assemble w).getLsbD i = (w.getD (i / 8) 0).getLsbD (i % 8) := by
  induction w generalizing i with
  | nil => simp [assemble]
  | cons b w ih =>
    rw [assemble, BitVec.getLsbD_or, BitVec.getLsbD_shiftLeft, BitVec.getLsbD_setWidth]
    by_cases h8 : i < 8
    · simp [hi, h8, Nat.div_eq_of_lt h8, Nat.mod_eq_of_lt h8]
    · have hq : i / 8 = (i - 8) / 8 + 1 := by omega
      have hr : i % 8 = (i - 8) % 8 := by omega
      rw [hq, hr, List.getD_cons_succ, ← ih (by omega), BitVec.getLsbD_of_ge b i (by omega)]
      simp [hi, h8]

/-- The byte mask of `setByte`, bit by bit. -/
theorem getLsbD_byteMask (j : Nat) : (0xFF#64).getLsbD j = decide (j < 8) := by
  rw [show 0xFF#64 = (BitVec.allOnes 8).setWidth 64 from rfl, BitVec.getLsbD_setWidth, BitVec.getLsbD_allOnes,
    ← Bool.decide_and, decide_eq_decide]
  omega

/-- `setByte` puts the byte into its place and leaves every other bit. -/
theorem getLsbD_setByte (w : U64) (k : Nat) (b : U8) {i : Nat} (hi : i < 64) :
    (setByte w k b).getLsbD i = if i / 8 = k then b.getLsbD (i % 8) else w.getLsbD i := by
  simp only [setByte, BitVec.getLsbD_or, BitVec.getLsbD_and, BitVec.getLsbD_not, BitVec.getLsbD_shiftLeft,
    BitVec.getLsbD_setWidth, getLsbD_byteMask]
  by_cases h : i / 8 = k
  · have hr : i - 8 * k = i % 8 := by omega
    have hlt : ¬i < 8 * k := by omega
    have h8 : i % 8 < 8 := Nat.mod_lt _ (by decide)
    simp [h, hi, hr, hlt, h8, h8.trans (by decide : 8 < 64)]
  · have hout : i < 8 * k ∨ 8 ≤ i - 8 * k := by omega
    rcases hout with hlt | h8
    · simp [h, hi, hlt]
    · simp [h, hi, Nat.not_lt.mpr h8, BitVec.getLsbD_of_ge b _ h8]

/-- The next byte of a reply, put into RAW behind those assembled before it. -/
theorem setByte_assemble {w : List U8} (b : U8) : setByte (assemble w) w.length b = assemble (w ++ [b]) := by
  refine BitVec.eq_of_getLsbD_eq fun i hi => ?_
  rw [getLsbD_setByte _ _ _ hi, getLsbD_assemble _ hi, getLsbD_assemble _ hi]
  split
  next h => rw [h, List.getD_append_right _ _ _ _ le_rfl]; simp
  next h =>
    rcases Nat.lt_or_gt_of_ne h with hlt | hgt
    · rw [List.getD_append _ _ _ _ hlt]
    · rw [List.getD_eq_default _ _ (by omega), List.getD_eq_default _ _ (by simp; omega)]

/-! ### The listen takes the oldest eight bytes -/

/-- Nothing of the listen since `s` has ended or been taken yet. -/
structure NothingTaken (s u : State) : Prop where
  op : u.regs.op = .awaitReply
  completions : u.completions = s.completions
  reads : readsOf u.calls = readsOf s.calls

/-- A lone listen since `s`, by where it stands, on a channel whose drain finds the buffer empty at its first test: nothing
is taken before COMPLETE, there RAW holds the bytes taken so far, and at the end it holds those of an `ok` completion. -/
inductive ListenProgress (s u : State) : Prop where
  | flush (hp : u.phase = .draining) (hq : u.regs.point = .first) (h : NothingTaken s u) (hrx : u.env.rx = [])
      (ha : arrivalsOf 2 u.env = [])
  | test (hp : u.phase = .draining) (hq : u.regs.point = .test) (h : NothingTaken s u) (hrx : u.env.rx = [])
      (ha : arrivalsOf 1 u.env = [])
  | poll (hp : u.phase = .waiting) (h : NothingTaken s u)
  | collect (hp : u.phase = .complete) (ho : u.regs.op = .awaitReply) (hc : u.completions = s.completions)
      (hi : u.regs.rxi < 8) (w : List U8) (hr : readsOf u.calls = readsOf s.calls ++ w) (hl : w.length = u.regs.rxi)
      (hraw : u.regs.raw = assemble w)
  | expired (hp : u.phase = .timedOut) (h : NothingTaken s u)
  | timedOut (hp : u.phase = .idle)
      (hc : u.completions = s.completions ++ [⟨.awaitReply, .u64 u.regs.raw, .replyTimeout⟩])
  | replied (hp : u.phase = .idle) (hc : u.completions = s.completions ++ [⟨.awaitReply, .u64 u.regs.raw, .ok⟩])
      (w : List U8) (hr : readsOf u.calls = readsOf s.calls ++ w) (hl : w.length = 8) (hraw : u.regs.raw = assemble w)

/-- A call that is no read leaves the listen where nothing is taken. -/
theorem NothingTaken.called {s u v : State} (h : NothingTaken s u) (ho : v.regs.op = u.regs.op)
    (hc : v.completions = u.completions) {c : Call} (hv : v.calls = u.calls ++ [c]) (hr : readsOf [c] = []) :
    NothingTaken s v where
  op := ho.trans h.op
  completions := hc.trans h.completions
  reads := by rw [hv, readsOf_append, hr, List.append_nil, h.reads]

theorem ListenProgress.pollTest {s u : State} (hp : u.phase = .waiting) (h : NothingTaken s u) :
    ListenProgress s (pollTest u) := by
  rcases pollTest_cases u with ⟨-, e⟩ | ⟨-, -, e⟩ | ⟨-, -, e⟩ <;> rw [e]
  · exact .collect rfl h.op h.completions (by simp) [] (by simp [readsOf_append, readsOf, h.reads]) rfl rfl
  · exact .expired rfl (h.called rfl rfl rfl rfl)
  · exact .poll hp (h.called rfl rfl rfl rfl)

/-- A byte taken goes behind those in RAW; the eighth ends the listen. -/
theorem ListenProgress.takeByte {s u : State} (b : U8) (hp : u.phase = .complete) (ho : u.regs.op = .awaitReply)
    (hc : u.completions = s.completions) {w : List U8} (hr : readsOf u.calls = readsOf s.calls ++ w)
    (hl : w.length = u.regs.rxi) (hi : u.regs.rxi < 8) (hraw : u.regs.raw = assemble w) :
    ListenProgress s (takeByte b (readDone b u)) := by
  have hr' : readsOf (u.calls ++ [.read b]) = readsOf s.calls ++ (w ++ [b]) := by
    simp [readsOf_append, readsOf, hr]
  have hl' : (w ++ [b]).length = u.regs.rxi + 1 := by simp [hl]
  have hraw' : setByte u.regs.raw u.regs.rxi b = assemble (w ++ [b]) := by rw [hraw, ← hl, setByte_assemble]
  rcases takeByte_cases b (readDone b u) with ⟨hi', e⟩ | ⟨h8, e⟩
  · rw [e]
    exact .collect hp ho hc hi' (w ++ [b]) hr' hl' hraw'
  · rw [e, finishListening_awaitReply (s := byteTaken b (readDone b u)) .ok ho]
    have h8 : 8 ≤ u.regs.rxi + 1 := h8
    refine .replied rfl ?_ (w ++ [b]) hr' (by omega) hraw'
    simp [byteTaken, readDone, hc, ho]

/-- On a channel whose calls return, every tick moves the listen on. -/
theorem ListenProgress.tick {s u v : State} (hb : u.phase ≠ .idle) (hpr : u.env.prompt = true) (h : ListenProgress s u)
    (ht : tick u = .next v) : ListenProgress s v := by
  have hret : u.env.slot.ending = .returns := Env.prompt_slot hpr
  cases h with
  | flush hp hq h hrx ha =>
    simp only [tick_draining hp, tickDraining, hq, call_returns hret] at ht
    cases ht
    obtain ⟨hnow, hlater⟩ := List.append_eq_nil_iff.mp ((arrivalsOf_succ 1 u.env).symm.trans ha)
    exact .test hp rfl (h.called rfl rfl rfl rfl) (List.append_eq_nil_iff.mpr ⟨hrx, hnow⟩)
      ((arrivalsOf_congr 1 rfl rfl).trans hlater)
  | test hp hq h hrx ha =>
    simp only [tick_draining hp, tickDraining, hq, call_returns hret] at ht
    cases ht
    have hnow : u.env.slot.arrivals = [] := by simpa [arrivalsOf_succ] using ha
    rcases drainTest_cases (elapse u) with ⟨-, e⟩ | ⟨hne, -⟩
    · rw [e]
      exact .poll rfl (h.called rfl rfl rfl rfl)
    · exact absurd (List.append_eq_nil_iff.mpr ⟨hrx, hnow⟩) hne
  | poll hp h =>
    rw [tick_waiting hp, tickWaiting] at ht
    cases hq : u.regs.point <;> simp only [hq, call_returns hret] at ht <;> cases ht
    · exact .poll hp (h.called rfl rfl rfl rfl)
    · exact .pollTest (u := elapse u) hp ⟨h.op, h.completions, h.reads⟩
    · exact .poll hp (h.called rfl rfl rfl rfl)
  | collect hp ho hc hi w hr hl hraw =>
    rw [tick_complete hp, tickComplete] at ht
    obtain ⟨b, -, -, ⟨he, -⟩ | ⟨he, -⟩ | ⟨-, rfl⟩⟩ := chanRead_next ht
    · simp [hret] at he
    · simp [hret] at he
    · exact .takeByte (u := elapse u) b hp ho hc hr hl hi hraw
  | expired hp h =>
    rw [tick_timedOut hp, tickTimedOut, expire_awaitReply h.op] at ht
    cases ht
    exact .timedOut rfl (by simp [h.completions, h.op])
  | timedOut hp | replied hp => exact absurd hp hb

/-- A listen that has presented `ok` took eight bytes, and they are its value. -/
theorem ListenProgress.replied_of_ok {s t : State} {raw : U64} (h : ListenProgress s t)
    (hc : t.completions = s.completions ++ [⟨.awaitReply, .u64 raw, .ok⟩]) :
    ∃ w, readsOf t.calls = readsOf s.calls ++ w ∧ w.length = 8 ∧ raw = assemble w := by
  cases h with
  | flush _ _ h | test _ _ h | poll _ h | expired _ h => simp [h.completions] at hc
  | collect _ _ hc' => simp [hc'] at hc
  | timedOut _ hc' => simp [hc'] at hc
  | replied _ hc' w hr hl hraw =>
    have : t.regs.raw = raw := by simpa [hc'] using hc
    exact ⟨w, hr, hl, this ▸ hraw⟩

/-- A channel whose calls return stays one. -/
theorem Accounted.prompt {l : List Call} {n : Nat} {s t : State} (h : Accounted l n s t) (hp : s.env.prompt = true) :
    t.env.prompt = true := by
  simp only [Env.prompt, Bool.and_eq_true, List.all_eq_true] at hp ⊢
  rw [h.script, h.rest]
  exact ⟨fun x hx => hp.1 x (List.mem_of_mem_drop hx), hp.2⟩

/-- Settles O54: the eight bytes of the reply are the reads of the listen, and every byte read is accounted for. -/
theorem oldestEightBytesAreTaken : Obligations.OldestEightBytesAreTaken := by
  intro s t raw hp hpr hrx ha h hc
  have h0 : ListenProgress s (started s (.awaitReply true)) ∧ s.env.prompt = true :=
    ⟨.flush rfl rfl ⟨rfl, rfl, rfl⟩ hrx ha, hpr⟩
  obtain ⟨hlisten, -⟩ := runOperation_induction (P := fun u => ListenProgress s u ∧ u.env.prompt = true)
    (fun u v hb ⟨hu, hup⟩ htick =>
      let ⟨_, _, hacc⟩ := tick_accounted hb htick
      ⟨hu.tick hb hup htick, hacc.prompt hup⟩)
    h0 (exec_operation rfl h).2
  obtain ⟨w, hw, hl, hraw⟩ := hlisten.replied_of_ok hc
  obtain ⟨l, n, hacc⟩ := exec_accounted rfl h
  have hreads : readsOf l = w := by simpa [hacc.calls, readsOf_append] using hw
  have harrived : arrivalsOf n s.env = w ++ t.env.rx := by simpa [hrx, hreads] using hacc.taken.symm
  exact ⟨n, by simp [harrived, hl], by rw [harrived, List.take_left' hl, hraw], by rw [harrived, List.drop_left' hl]⟩

end Sys2Proof.Machine

/-! ### Encoding and decoding

The decoder by its two interfaces (30_encoding.md R58 and R50 to R54), each said once: what is read from a command with an
operation's code, and from the bytes of each datagram format. -/

namespace Sys2Proof

/-- Every code of the table selects its own operation (30_encoding.md R58). -/
@[simp] theorem Op.ofCode_code (op : Op) : Op.ofCode op.code = some op := by
  cases op <;> rfl

/-- What a code selects has that code. -/
theorem Op.code_of_ofCode {c : BitVec 4} {op : Op} (h : Op.ofCode c = some op) : op.code = c := by
  simpa using List.find?_some h

/-- A command that decodes is the operation its code selects, with the operands presented. -/
theorem decodeCommand_eq_ok {c : BitVec 4} {o : Operands} {i : Instr} (h : decodeCommand c o = .ok i) :
    ∃ op : Op, op.code = c ∧ i = op.instr o := by
  unfold decodeCommand at h
  split at h
  next op hop =>
    cases h
    exact ⟨op, Op.code_of_ofCode hop, rfl⟩
  next => cases h

/-- Every operand value of an operation is legal. -/
theorem Op.instr_wf (p : Params) (op : Op) (o : Operands) : (op.instr o).wf p = true := by
  cases op <;> rfl

theorem Op.opOf_instr (op : Op) (o : Operands) : Machine.opOf (op.instr o) = some op := by
  cases op <;> rfl

/-- The encoding of an operation keeps the operands it takes and zeroes the other inputs. -/
theorem Op.encode_instr (op : Op) (o : Operands) : encode (op.instr o) = .command op.code (Machine.inputsOf op o) := by
  cases op <;> rfl

/-- The first `n` bytes of a word of any width, byte 0 first: `wireBytes` without its width. -/
def bytesOf {w : Nat} (n : Nat) (x : BitVec w) : List U8 := (List.range n).map fun i => x.extractLsb' (8 * i) 8

/-- The bytes of a word made of two parts are those of the low part, then those of the high part. -/
theorem bytesOf_append {v k n : Nat} (x : BitVec v) (y : BitVec (8 * k)) :
    bytesOf (k + n) (x ++ y) = bytesOf k y ++ bytesOf n x := by
  have hlow : ∀ i ∈ List.range k, (x ++ y).extractLsb' (8 * i) 8 = y.extractLsb' (8 * i) 8 := fun i hi =>
    have : i < k := List.mem_range.mp hi
    BitVec.extractLsb'_append_eq_of_add_le (by omega)
  have hhigh : ∀ i, (x ++ y).extractLsb' (8 * (k + i)) 8 = x.extractLsb' (8 * i) 8 := fun i => by
    rw [BitVec.extractLsb'_append_eq_of_le (by omega), Nat.mul_add, Nat.add_sub_cancel_left]
  simp only [bytesOf, List.range_add, List.map_append, List.map_map, Function.comp_def, hhigh, List.map_congr_left hlow]

theorem bytesOf_byte (b : U8) : bytesOf 1 b = [b] := by simp [bytesOf]

theorem bytesOf_payload (d : U32) :
    bytesOf 4 d = [payloadByte d 0, payloadByte d 1, payloadByte d 2, payloadByte d 3] := rfl

/-- The four payload bytes make up the payload field (30_encoding.md R51). -/
@[simp] theorem payloadOfBytes_payloadByte (d : U32) :
    payloadOfBytes (payloadByte d 0) (payloadByte d 1) (payloadByte d 2) (payloadByte d 3) = d := by
  unfold payloadOfBytes payloadByte
  rw [BitVec.extractLsb'_append_extractLsb'_eq_extractLsb' (by rfl),
    BitVec.extractLsb'_append_extractLsb'_eq_extractLsb' (by rfl),
    BitVec.extractLsb'_append_extractLsb'_eq_extractLsb' (by rfl)]
  exact BitVec.extractLsb'_eq_self

/-- The bytes of the payload field are wire bytes 3 to 6. -/
theorem bytesOf_payloadOfBytes (b3 b4 b5 b6 : U8) : bytesOf 4 (payloadOfBytes b3 b4 b5 b6) = [b3, b4, b5, b6] := by
  change bytesOf (1 + (1 + (1 + 1))) (b6 ++ b5 ++ b4 ++ b3) = _
  rw [bytesOf_append (k := 1), bytesOf_append (k := 1), bytesOf_append (k := 1)]
  simp only [bytesOf_byte, List.cons_append, List.nil_append]

/-- Byte `k` of the payload field is wire byte `3 + k`. -/
@[simp] theorem payloadByte_payloadOfBytes (b3 b4 b5 b6 : U8) :
    payloadByte (payloadOfBytes b3 b4 b5 b6) 0 = b3 ∧ payloadByte (payloadOfBytes b3 b4 b5 b6) 1 = b4 ∧
    payloadByte (payloadOfBytes b3 b4 b5 b6) 2 = b5 ∧ payloadByte (payloadOfBytes b3 b4 b5 b6) 3 = b6 := by
  simpa [bytesOf_payload] using bytesOf_payloadOfBytes b3 b4 b5 b6

/-- Four bytes decode as a request exactly when the fixed bits of R52 are there. -/
theorem decodeRequestBytes_eq_ok_iff {p : Params} {y a f c : U8} {i : Instr} :
    decodeRequestBytes p y a f c = .ok i ↔ i = .requestDatagram y a f c ∧ i.wf p = true := by
  unfold decodeRequestBytes
  constructor
  · intro h
    split at h
    · cases h
    · split at h
      · cases h
      · cases h
        simp_all [Instr.wf]
  · rintro ⟨rfl, h⟩
    simp_all [Instr.wf]

/-- Eight outgoing bytes decode as a write exactly when the fixed bits of R51 are there. -/
theorem decodeWriteBytes_eq_ok_iff {p : Params} {y a f c : U8} {d : U32} {i : Instr} :
    decodeWriteBytes p y a f d c = .ok i ↔ i = .writeDatagram y a f d c ∧ i.wf p = true := by
  unfold decodeWriteBytes
  constructor
  · intro h
    split at h
    · cases h
    · split at h
      · cases h
      · cases h
        simp_all [Instr.wf]
  · rintro ⟨rfl, h⟩
    simp_all [Instr.wf]

/-- Bytes on the wire that decode are those of a well-formed datagram. -/
theorem decodeWire_eq_ok {p : Params} {dir : Direction} {bytes : List U8} {i : Instr}
    (h : decodeWire p dir bytes = .ok i) : i.wf p = true ∧ encode i = .wire dir bytes := by
  unfold decodeWire at h
  split at h
  next y a f c =>
    cases dir with
    | echo =>
      obtain ⟨rfl, hwf⟩ := decodeRequestBytes_eq_ok_iff.mp h
      exact ⟨hwf, rfl⟩
    | reply => cases h
  next y a f b3 b4 b5 b6 c =>
    cases dir with
    | echo =>
      obtain ⟨rfl, hwf⟩ := decodeWriteBytes_eq_ok_iff.mp h
      exact ⟨hwf, by simp [encode]⟩
    | reply =>
      cases h
      exact ⟨rfl, by simp [encode]⟩
  next => cases h

/-- Settles O1: an operation by its code, a datagram by its length, direction and fixed bits. -/
theorem encodeThenDecode : Obligations.EncodeThenDecode := by
  intro p i h
  cases i with
  | byteCRC | wordCRC | startSeed | reverseBytes | encodeWrite | encodeRequest | decodeResponse
  | write | request | awaitReply | read => rfl
  | writeDatagram y a f d c =>
    rw [← payloadOfBytes_payloadByte d] at h
    exact (decodeWriteBytes_eq_ok_iff.mpr ⟨rfl, h⟩).trans (by rw [payloadOfBytes_payloadByte])
  | requestDatagram y a f c => exact decodeRequestBytes_eq_ok_iff.mpr ⟨rfl, h⟩
  | responseDatagram y a f d c => simp [decode, encode, decodeWire]

/-- Settles O2: what decodes at either interface is the instruction it was read from. -/
theorem decodedIsEncoded : Obligations.DecodedIsEncoded := by
  refine ⟨?_, fun p dir bytes i h => (decodeWire_eq_ok h).2, ?_⟩
  · intro p f i h
    cases f with
    | command code o =>
      obtain ⟨op, -, rfl⟩ := decodeCommand_eq_ok h
      exact op.instr_wf p o
    | wire dir bytes => exact (decodeWire_eq_ok h).1
  · intro p code o i h
    obtain ⟨op, rfl, rfl⟩ := decodeCommand_eq_ok h
    exact ⟨op, op.opOf_instr o, rfl, op.encode_instr o⟩

/-- Settles O3: the six words compute. -/
theorem specWordsDecode : Obligations.SpecWordsDecode := by
  unfold Obligations.SpecWordsDecode
  decide

end Sys2Proof

namespace Sys2Proof.Machine

/-- Settles O4: the sixteen codes are looked up, and an idle block refuses a command that does not decode. -/
theorem unassignedCodesRefused : Obligations.UnassignedCodesRefused := by
  refine ⟨Op.ofCode_code, by decide, ?_⟩
  intro s code o rest hp hi hc
  have hd : decode s.params (.command code o) = .error (.unassignedCode code) := by simp [decode, decodeCommand, hc]
  exact (step_fetch hp hi).trans (runFrame_error (s := { s with inbox := rest }) hd)

theorem wireBytes_eq_bytesOf (n : Nat) (w : U64) : wireBytes n w = bytesOf n w := rfl

/-- The word of a write datagram goes onto the wire as the row's bytes (30_encoding.md R51, R54). -/
theorem wireBytes_writeWord (y a f : U8) (d : U32) (c : U8) :
    .wire .echo (wireBytes 8 (c ++ d ++ f ++ a ++ y)) = encode (.writeDatagram y a f d c) := by
  have hw : wireBytes 8 (c ++ d ++ f ++ a ++ y) = bytesOf (1 + (1 + (1 + (4 + 1)))) (c ++ d ++ f ++ a ++ y) :=
    wireBytes_eq_bytesOf 8 _
  rw [hw, bytesOf_append (k := 1), bytesOf_append (k := 1), bytesOf_append (k := 1), bytesOf_append (k := 4)]
  simp only [bytesOf_byte, bytesOf_payload, encode, List.cons_append, List.nil_append]

/-- The word of a request datagram goes onto the wire as the row's bytes (R52, R54). -/
theorem wireBytes_requestWord (y a f c : U8) :
    .wire .echo (wireBytes 4 ((c ++ f ++ a ++ y).setWidth 64)) = encode (.requestDatagram y a f c) := by
  have hw : wireBytes 4 ((c ++ f ++ a ++ y).setWidth 64) = bytesOf (1 + (1 + (1 + 1))) (c ++ f ++ a ++ y) :=
    List.map_congr_left fun i hi =>
      have : i < 4 := List.mem_range.mp hi
      BitVec.extractLsb'_setWidth_of_le (by omega)
  rw [hw, bytesOf_append (k := 1), bytesOf_append (k := 1), bytesOf_append (k := 1)]
  simp only [bytesOf_byte, encode, List.cons_append, List.nil_append]

/-- Settles O5: the encoders' words are the bytes of well-formed rows, which decode. -/
theorem builtDatagramsDecode : Obligations.BuiltDatagramsDecode := by
  intro p a r v hp
  have hw : writeField p r = r ||| 0x80#8 := by simp [writeField, hp]
  have hr : requestField p r = r &&& 0x7F#8 := by simp [requestField, hp]
  constructor
  · rw [encodeWrite, wireBytes_writeWord, hw]
    exact encodeThenDecode p _ (by simp [Instr.wf, syncOk, writeFlag])
  · rw [encodeRequest, wireBytes_requestWord, hr]
    exact encodeThenDecode p _ (by simp [Instr.wf, syncOk, writeFlag])

/-- A field of a response from bit 16 up is a field of bits 63:16. -/
theorem extractLsb'_extractLsb'_16 {raw : U64} {k n : Nat} (h : k + n ≤ 48) :
    (raw.extractLsb' 16 48).extractLsb' k n = raw.extractLsb' (16 + k) n := by
  refine BitVec.eq_of_getLsbD_eq fun i hi => ?_
  have : k + i < 48 := by omega
  simp [hi, this, Nat.add_assoc]

/-- Settles O23: away from all ones the decoder reads three fields, all of them within bits 63:16. -/
theorem syncAndAddressNotExamined : Obligations.SyncAndAddressNotExamined := by
  intro p raw raw' h hn hn'
  have fields : ∀ k n, k + n ≤ 48 → raw.extractLsb' (16 + k) n = raw'.extractLsb' (16 + k) n := by
    intro k n hk
    rw [← extractLsb'_extractLsb'_16 hk, h, extractLsb'_extractLsb'_16 hk]
  have hfield : responseField raw = responseField raw' := fields 0 8 (by decide)
  have hpay : responsePayload raw = responsePayload raw' := fields 8 32 (by decide)
  have hcrc : receivedCrc raw = receivedCrc raw' := fields 40 8 (by decide)
  have hmatch : crcMatches p raw = crcMatches p raw' := by rw [crcMatches, crcMatches, hfield, hpay, hcrc]
  rw [decodeResponse, decodeResponse, if_neg hn, if_neg hn', hmatch, hpay]

/-- A register address below 0x80 is kept by clearing bit 7. -/
theorem and_7F_of_lt {r : U8} (h : r.toNat < 0x80) : r &&& 0x7F#8 = r :=
  BitVec.eq_of_toNat_eq (Nat.and_two_pow_sub_one_of_lt_two_pow (n := 7) h)

/-- A register field from 0x80 up is kept by setting bit 7. -/
theorem or_80_of_le {r : U8} (h : 0x80 ≤ r.toNat) : r ||| 0x80#8 = r := by
  have hbit : r.getLsbD 7 = true := by
    rw [← BitVec.msb_eq_getLsbD_last (w := 8), BitVec.msb_eq_decide, decide_eq_true h]
  refine BitVec.eq_of_getLsbD_eq fun i hi => ?_
  rw [BitVec.getLsbD_or, show 0x80#8 = BitVec.twoPow 8 7 from rfl, BitVec.getLsbD_twoPow]
  by_cases h7 : 7 = i
  · simp [← h7, hbit]
  · simp [h7]

/-- Settles O21: under `copy` the field is the operand, and `force` leaves an operand that has its bit 7 right. -/
theorem flagPoliciesAgreeWhereSaid : Obligations.FlagPoliciesAgreeWhereSaid := by
  rintro p q a r v hp rfl
  refine ⟨?_, ?_, fun h => ?_, fun h => ?_⟩
  · rw [encodeWrite, BitVec.extractLsb'_append_eq_of_le (by decide), BitVec.extractLsb'_append_eq_of_le (by decide)]
    exact BitVec.extractLsb'_append_eq_right
  · rw [encodeRequest, BitVec.extractLsb'_append_eq_of_le (by decide), BitVec.extractLsb'_append_eq_of_le (by decide)]
    exact BitVec.extractLsb'_append_eq_right
  · have hf : requestField p r = r := by simp [requestField, hp, and_7F_of_lt h]
    simp only [encodeRequest, hf]
    rfl
  · have hf : writeField p r = r := by simp [writeField, hp, or_80_of_le h]
    simp only [encodeWrite, hf]
    rfl

/-- Settles O38: a datagram's start is the whole step, and its encoding lists its bytes in wire order. -/
theorem datagramsArriveInWireOrder : Obligations.DatagramsArriveInWireOrder := fun s _ _ _ _ _ =>
  ⟨exec_datagram rfl s, exec_datagram rfl s, exec_datagram rfl s⟩

end Sys2Proof.Machine

/-! ### Operations that end

How many ticks bring a BUSY block back to IDLE on a channel whose calls return, phase by phase
(42_transport_driver.md R108), and that `callBound` allows them. -/

namespace Sys2Proof.Machine

/-- At most `n` ticks bring the block back to IDLE. -/
def EndsIn (n : Nat) (s : State) : Prop := ∃ t, runOperation n s = .next t ∧ t.phase = .idle

/-- A run that has ended has ended for any more ticks. -/
theorem runOperation_mono {m n : Nat} {s t : State} (h : runOperation m s = .next t) (ht : t.phase = .idle)
    (hmn : m ≤ n) : runOperation n s = .next t := by
  obtain ⟨k, rfl⟩ := Nat.exists_eq_add_of_le hmn
  rw [runOperation_add h, runOperation_idle k ht]

/-- Two runs of one state that have ended have ended in the same state. -/
theorem runOperation_idle_unique {m n : Nat} {s t u : State} (ht : runOperation m s = .next t) (hti : t.phase = .idle)
    (hu : runOperation n s = .next u) (hui : u.phase = .idle) : t = u := by
  have h := (runOperation_mono ht hti (Nat.le_max_left m n)).symm.trans
    (runOperation_mono hu hui (Nat.le_max_right m n))
  cases h
  rfl

theorem EndsIn.mono {m n : Nat} {s : State} (h : EndsIn m s) (hmn : m ≤ n) : EndsIn n s := by
  obtain ⟨t, ht, hi⟩ := h
  exact ⟨t, runOperation_mono ht hi hmn, hi⟩

theorem EndsIn.of_idle {s : State} (n : Nat) (h : s.phase = .idle) : EndsIn n s := ⟨s, runOperation_idle n h, h⟩

theorem EndsIn.of_run {m n : Nat} {s t : State} (ht : runOperation m s = .next t) (h : EndsIn n t) :
    EndsIn (m + n) s := by
  obtain ⟨u, hu, hi⟩ := h
  exact ⟨u, (runOperation_add ht).trans hu, hi⟩

theorem EndsIn.of_tick {n : Nat} {s t : State} (hb : s.phase ≠ .idle) (ht : tick s = .next t) (h : EndsIn n t) :
    EndsIn (n + 1) s := by
  obtain ⟨u, hu, hi⟩ := h
  exact ⟨u, (runOperation_next hb ht).trans hu, hi⟩

section
variable {s : State}

/-! What the block does when its call returns, place by place. -/

theorem afterCall_listenFlush (hp : s.phase = .draining) (hq : s.regs.point = .first) :
    afterCall s = setPoint .test (chanFlush s) := by simp [afterCall, hp, hq]

theorem afterCall_drainTest (hp : s.phase = .draining) (hq : s.regs.point = .test) :
    afterCall s = drainTest s := by simp [afterCall, hp, hq]

theorem afterCall_drainByte (hp : s.phase = .draining) (hq : s.regs.point = .act) :
    afterCall s = setPoint .test (readDone (s.env.rx.headD 0) s) := by simp [afterCall, hp, hq]

theorem afterCall_startPoll (hp : s.phase = .waiting) (hq : s.regs.point = .first) :
    afterCall s = startPoll s := by simp [afterCall, hp, hq]

theorem afterCall_pollTest (hp : s.phase = .waiting) (hq : s.regs.point = .test) :
    afterCall s = pollTest s := by simp [afterCall, hp, hq]

theorem afterCall_pollAgain (hp : s.phase = .waiting) (hq : s.regs.point = .act) :
    afterCall s = pollAgain s := by simp [afterCall, hp, hq]

theorem afterCall_takeByte (hp : s.phase = .complete) :
    afterCall s = takeByte (s.env.rx.headD 0) (readDone (s.env.rx.headD 0) s) := by simp [afterCall, hp]

end

/-- The invariant holds, and every call on the channel returns (20_memory.md R45 (d)). -/
def Answered (s : State) : Prop := s.inv = true ∧ s.env.prompt = true

/-- A BUSY block whose calls return ends one tick later than it does after the next call. -/
theorem EndsIn.of_call {n : Nat} {s : State} (h : Answered s) (hb : s.phase ≠ .idle) (ht : s.phase ≠ .timedOut)
    (hn : Answered (afterCall (elapse s)) → EndsIn n (afterCall (elapse s))) : EndsIn (n + 1) s := by
  have hk : tick s = .next (afterCall (elapse s)) := by
    rw [tick_eq_call hb ht (rx_ne_nil_of_reading h.1), call_returns (Env.prompt_slot h.2)]
  obtain ⟨l, m, hacc⟩ := tick_accounted hb hk
  exact .of_tick hb hk (hn ⟨inv_tick hb h.1 hk, hacc.prompt h.2⟩)

/-- A timeout ends at its next tick (42_transport_driver.md R105). -/
theorem EndsIn.timedOut {s : State} (hp : s.phase = .timedOut) : EndsIn 1 s :=
  .of_tick (by simp [hp]) (tick_timedOut hp) (.of_idle 0 (expire_idle s).1)

/-- Collecting takes the bytes that are missing in RAW (R98). -/
theorem EndsIn.collect {n : Nat} {s : State} (h : Answered s) (hp : s.phase = .complete) (hn : s.regs.rxi + n = 8) :
    EndsIn n s := by
  induction n generalizing s with
  | zero =>
    obtain ⟨-, hi, -⟩ := (inv_complete_iff hp).mp h.1
    omega
  | succ n ih =>
    refine .of_call h (by simp [hp]) (by simp [hp]) fun h' => ?_
    rw [afterCall_takeByte (s := elapse s) hp] at h' ⊢
    generalize (elapse s).env.rx.headD 0 = b at h' ⊢
    rcases takeByte_cases b (readDone b (elapse s)) with ⟨-, e⟩ | ⟨-, e⟩
    · rw [e] at h' ⊢
      exact ih h' hp ((Nat.add_right_comm ..).trans hn)
    · obtain ⟨v, st, e'⟩ := finishListening_spec .ok (byteTaken b (readDone b (elapse s)))
      rw [e, e']
      exact .of_idle n rfl

/-- The poll makes at most CNT delays and CNT + 1 tests before it collects or expires (R97). -/
theorem EndsIn.poll {s : State} (h : Answered s) (hp : s.phase = .waiting) (hq : s.regs.point = .test) :
    EndsIn (2 * s.regs.cnt + 9) s := by
  induction hc : s.regs.cnt using Nat.strong_induction_on generalizing s with
  | h c ih =>
    refine .of_call (n := 2 * c + 8) h (by simp [hp]) (by simp [hp]) fun h' => ?_
    rw [afterCall_pollTest (s := elapse s) hp hq] at h' ⊢
    rcases pollTest_cases (elapse s) with ⟨-, e⟩ | ⟨-, -, e⟩ | ⟨-, hne, e⟩ <;> rw [e] at h' ⊢
    · exact (EndsIn.collect h' rfl (Nat.zero_add 8)).mono (by omega)
    · exact (EndsIn.timedOut rfl).mono (by omega)
    · have hpos : c ≠ 0 := hc ▸ hne
      refine .mono (.of_call (n := 2 * (c - 1) + 9) h' (by simp [hp]) (by simp [hp]) fun h'' => ?_) (by omega)
      rw [afterCall_pollAgain (s := elapse (setPoint .act (chanAvail (elapse s)))) hp rfl] at h'' ⊢
      exact ih (c - 1) (by omega) h'' hp rfl (congrArg (· - 1) hc)

/-- The wait for a reply is bounded by the budget (R96, R97, R108). -/
theorem EndsIn.wait {s : State} (h : Answered s) (hp : s.phase = .waiting) (hq : s.regs.point = .first) :
    EndsIn (2 * s.params.replyBudget + 10) s := by
  refine .of_call h (by simp [hp]) (by simp [hp]) fun h' => ?_
  rw [afterCall_startPoll (s := elapse s) hp hq] at h' ⊢
  exact .poll h' hp rfl

/-- What is buffered and still to arrive, seen before and after the time of one call. -/
theorem arrived_elapse (m : Nat) (e : Env) : e.elapse.rx.length + (arrivalsOf m e.elapse).length =
    e.rx.length + (arrivalsOf (m + 1) e).length := by
  simp [arrivalsOf_succ, Nat.add_assoc]

/-- One byte discarded by the drain: of all that is buffered and comes during the rounds left, one less. -/
theorem EndsIn.discard {j n : Nat} {s : State} (h : Answered s) (hp : s.phase = .draining) (hq : s.regs.point = .act)
    (hk : s.env.rx.length + (arrivalsOf (2 * j + 2) s.env).length ≤ j + 1)
    (hn : ∀ t, Answered t → t.phase = .draining → t.regs.point = .test → t.params = s.params →
      t.env.rx.length + (arrivalsOf (2 * j + 1) t.env).length ≤ j → EndsIn n t) : EndsIn (n + 1) s := by
  refine .of_call h (by simp [hp]) (by simp [hp]) fun h' => ?_
  rw [afterCall_drainByte (s := elapse s) hp hq] at h' ⊢
  refine hn _ h' hp rfl rfl ?_
  have hpos := List.length_pos_iff.mpr (rx_ne_nil_of_reading h.1 (.inr ⟨hp, hq⟩))
  have hlater : arrivalsOf (2 * j + 1) (setPoint .test (readDone ((elapse s).env.rx.headD 0) (elapse s))).env =
    arrivalsOf (2 * j + 1) s.env.elapse := arrivalsOf_congr _ rfl rfl
  have hrx : (setPoint .test (readDone ((elapse s).env.rx.headD 0) (elapse s))).env.rx.length =
    s.env.elapse.rx.length - 1 := List.length_tail
  have hgrows : s.env.rx.length ≤ s.env.elapse.rx.length := by simp
  rw [← arrived_elapse] at hk
  rw [hlater, hrx]
  omega

/-- A drain that can take all that comes in `k` rounds makes at most `k` reads and `k + 1` tests (R99, R108). -/
theorem EndsIn.drain {k : Nat} {s : State} (h : Answered s) (hp : s.phase = .draining) (hq : s.regs.point = .test)
    (hk : s.env.rx.length + (arrivalsOf (2 * k + 1) s.env).length ≤ k) :
    EndsIn (2 * k + (2 * s.params.replyBudget + 10) + 1) s := by
  induction k using Nat.strong_induction_on generalizing s with
  | h k ih =>
    refine .of_call h (by simp [hp]) (by simp [hp]) fun h' => ?_
    rw [afterCall_drainTest (s := elapse s) hp hq] at h' ⊢
    rcases drainTest_cases (elapse s) with ⟨-, e⟩ | ⟨hne, e⟩ <;> rw [e] at h' ⊢
    · exact (EndsIn.wait h' rfl rfl).mono (Nat.le_add_left _ _)
    · have hpos : 0 < s.env.elapse.rx.length := List.length_pos_iff.mpr hne
      rw [← arrived_elapse] at hk
      obtain ⟨j, rfl⟩ : ∃ j, k = j + 1 := ⟨k - 1, by omega⟩
      refine EndsIn.mono (.discard (n := 2 * j + (2 * s.params.replyBudget + 10) + 1) h' hp rfl hk
        fun t ht htp htq htb htk => ?_) (by omega)
      exact (show t.params = s.params from htb) ▸ ih j (Nat.lt_succ_self j) ht htp htq htk

/-- A listen ends when its drain does. -/
theorem EndsIn.listen {k : Nat} {s : State} (h : Answered s) (hp : s.phase = .draining) (hq : s.regs.point = .first)
    (hk : s.env.rx.length + (arrivalsOf (2 * k + 2) s.env).length ≤ k) :
    EndsIn (2 * k + (2 * s.params.replyBudget + 10) + 2) s := by
  refine .of_call h (by simp [hp]) (by simp [hp]) fun h' => ?_
  rw [afterCall_listenFlush (s := elapse s) hp hq] at h' ⊢
  have hlater : arrivalsOf (2 * k + 1) (setPoint .test (chanFlush (elapse s))).env =
    arrivalsOf (2 * k + 1) s.env.elapse := arrivalsOf_congr _ rfl rfl
  exact .drain h' hp rfl (hlater ▸ (arrived_elapse _ _).trans_le hk)

/-- On a line that never falls silent every call after the script brings a byte. -/
theorem arrivalsOf_length_lt_succ {n : Nat} {e : Env} (hr : e.rest.arrivals ≠ []) (hn : e.script.length ≤ n) :
    (arrivalsOf n e).length < (arrivalsOf (n + 1) e).length := by
  have hlast : arrivalsOf 1 { e with script := e.script.drop n } = e.rest.arrivals := by
    simp [arrivalsOf_succ, Env.slot, List.drop_eq_nil_of_le hn]
  have hpos := List.length_pos_iff.mpr hr
  rw [arrivalsOf_add, hlast, List.length_append]
  omega

/-- A drain that ends does so within the script, or takes no more than the buffer and the script hold: this is why
`callBound` is enough (log 11). -/
theorem DrainEnds.bounded {sent : Nat} {e : Env} (h : DrainEnds sent e) :
    ∃ k, e.rx.length + (arrivalsOf (sent + 2 * k + 2) e).length ≤ k ∧
      2 * k ≤ e.script.length + 2 * (e.rx.length + scriptArrivals e.script) := by
  classical
  have hex : ∃ k, e.rx.length + (arrivalsOf (sent + 2 * k + 2) e).length ≤ k := h.imp fun _ hk => hk.le
  refine ⟨Nat.find hex, Nat.find_spec hex, ?_⟩
  have hfirst := Nat.find_spec hex
  cases hk : Nat.find hex with
  | zero => exact Nat.zero_le _
  | succ j =>
    have hmin : ¬e.rx.length + (arrivalsOf (sent + 2 * j + 2) e).length ≤ j :=
      Nat.find_min hex (hk ▸ Nat.lt_succ_self j)
    rw [hk] at hfirst
    by_cases hr : e.rest.arrivals = []
    · have := arrivalsOf_length_le (sent + 2 * j + 2) hr
      omega
    · by_contra hlong
      have h1 := arrivalsOf_length_lt_succ (n := sent + 2 * j + 3) hr (by omega)
      have h0 := arrivalsOf_length_mono (show sent + 2 * j + 2 ≤ sent + 2 * j + 3 by omega) e
      rw [show sent + 2 * (j + 1) + 2 = sent + 2 * j + 3 + 1 by omega] at hfirst
      omega

/-! ### Sending a datagram -/

/-- The bytes in turn are handed over, one after the other, by `m` calls. -/
def bytesSent (m : Nat) (s : State) : State := (fun u => byteSent (elapse u))^[m] s

theorem bytesSent_succ (m : Nat) (s : State) : bytesSent (m + 1) s = bytesSent m (byteSent (elapse s)) := rfl

/-- The flush of SENDING and the `n` bytes of the datagram (42_transport_driver.md R91, R102). -/
def datagramSent (n : Nat) (s : State) : State := bytesSent n (setPoint .act (chanFlush (elapse s)))

theorem sendByte_eq_ite (s : State) :
    sendByte s = if s.regs.txi + 1 < s.regs.txn then byteSent s else finishSending (byteSent s) := rfl

/-- The first of the coming calls, and those after it. -/
theorem slotsAnswer_succ {n : Nat} {s u : State} (ha : (slotsOf (n + 1) s.env).all Slot.answers = true)
    (hs : u.env.script = s.env.script.tail) (hr : u.env.rest = s.env.rest) :
    s.env.slot.answers = true ∧ (slotsOf n u.env).all Slot.answers = true := by
  rw [slotsOf_congr n (e := u.env) (e' := s.env.elapse) hs hr]
  simpa [slotsOf_elapse] using ha

theorem tick_sendByte {s : State} (hp : s.phase = .sending) (hq : s.regs.point = .act)
    (ha : s.env.slot.answers = true) : tick s = .next (sendByte (elapse s)) := by
  rw [tick_sending hp, tickSending, hq]
  exact call_returns (by simpa [Slot.answers] using ha)

/-- The remaining bytes are sent, one a tick, and the phase ends. -/
theorem runOperation_bytesSent {m : Nat} {s : State} (hp : s.phase = .sending) (hq : s.regs.point = .act)
    (hn : s.regs.txi + (m + 1) = s.regs.txn) (ha : (slotsOf (m + 1) s.env).all Slot.answers = true) :
    runOperation (m + 1) s = .next (finishSending (bytesSent (m + 1) s)) := by
  induction m generalizing s with
  | zero =>
    have ht := tick_sendByte hp hq (by simpa [slotsOf_succ] using ha)
    rw [runOperation_next (by simp [hp]) ht, sendByte_eq_ite, if_neg (by simp; omega)]
    rfl
  | succ m ih =>
    obtain ⟨h1, h2⟩ := slotsAnswer_succ (u := byteSent (elapse s)) ha rfl rfl
    rw [runOperation_next (by simp [hp]) (tick_sendByte hp hq h1), sendByte_eq_ite, if_pos (by simp; omega)]
    exact ih hp hq ((Nat.add_right_comm ..).trans hn) h2

/-- One call that returned is accounted for by its effect. -/
theorem Accounted.of_call {c : Call} {s t : State} (ha : s.env.slot.answers = true) (hc : t.calls = s.calls ++ [c])
    (he : CallEffect c [] (elapse s) t) (hs : t.env.script = s.env.script.tail) (hr : t.env.rest = s.env.rest) :
    Accounted [c] 1 s t :=
  ⟨hc, by simp [slotsOf_succ, ha], he.of_elapse.sent, by simpa [arrivalsOf_succ] using he.of_elapse.taken,
    by simp [hs], hr⟩

theorem byteSent_callEffect (s : State) : CallEffect (.write (byteAt s.regs.dgram s.regs.txi)) [] s (byteSent s) := by
  simp [CallEffect, byteSent]

/-- The bytes in turn are accounted for. -/
theorem bytesSent_accounted {m : Nat} {s : State} (ha : (slotsOf m s.env).all Slot.answers = true) :
    Accounted ((List.range m).map fun i => .write (byteAt s.regs.dgram (s.regs.txi + i))) m s (bytesSent m s) := by
  induction m generalizing s with
  | zero => exact .of_unchanged rfl rfl
  | succ m ih =>
    obtain ⟨h1, h2⟩ := slotsAnswer_succ (u := byteSent (elapse s)) ha rfl rfl
    have hone : Accounted [.write (byteAt s.regs.dgram s.regs.txi)] 1 s (byteSent (elapse s)) :=
      .of_call h1 rfl (byteSent_callEffect _) rfl rfl
    have := hone.trans (ih (s := byteSent (elapse s)) h2)
    rw [bytesSent_succ, List.range_succ_eq_map, Nat.add_comm m]
    simpa [Function.comp_def, byteSent, Nat.add_assoc, Nat.add_comm 1] using this

/-- SENDING runs its flush and the bytes of its datagram, and the phase ends. -/
theorem runOperation_datagramSent {m : Nat} {s : State} (hp : s.phase = .sending) (hq : s.regs.point = .first)
    (hi : s.regs.txi = 0) (hn : s.regs.txn = m + 1) (ha : (slotsOf (m + 2) s.env).all Slot.answers = true) :
    runOperation (m + 2) s = .next (finishSending (datagramSent (m + 1) s)) := by
  obtain ⟨h1, h2⟩ := slotsAnswer_succ (u := setPoint .act (chanFlush (elapse s))) ha rfl rfl
  have ht : tick s = .next (setPoint .act (chanFlush (elapse s))) := by
    rw [tick_sending hp, tickSending, hq]
    exact call_returns (by simpa [Slot.answers] using h1)
  rw [runOperation_next (by simp [hp]) ht]
  exact runOperation_bytesSent hp rfl (by simp [hi, hn]) h2

/-- Sending makes the calls of R106 and nothing else, and every byte is accounted for. -/
theorem datagramSent_accounted {n : Nat} {s : State} (hi : s.regs.txi = 0)
    (ha : (slotsOf (n + 1) s.env).all Slot.answers = true) :
    Accounted (sendCalls n s.regs.dgram) (n + 1) s (datagramSent n s) := by
  obtain ⟨h1, h2⟩ := slotsAnswer_succ (u := setPoint .act (chanFlush (elapse s))) ha rfl rfl
  have hone : Accounted [.flush] 1 s (setPoint .act (chanFlush (elapse s))) :=
    .of_call h1 rfl (by simp [CallEffect]) rfl rfl
  have := hone.trans (bytesSent_accounted (m := n) (s := setPoint .act (chanFlush (elapse s))) h2)
  rw [Nat.add_comm n]
  simpa [sendCalls, wireBytes, hi, Function.comp_def, datagramSent] using this

/-- On a channel whose calls return, all the coming ones do. -/
theorem slotsAnswer_of_prompt (n : Nat) {e : Env} (h : e.prompt = true) : (slotsOf n e).all Slot.answers = true := by
  induction n generalizing e with
  | zero => rfl
  | succ n ih => simpa [slotsOf_elapse, Slot.answers, Env.prompt_slot h] using ih (Env.prompt_elapse h)

/-- Calls that read nothing only add to the buffer what arrives during them. -/
theorem Accounted.arrived {l : List Call} {n : Nat} {s t : State} (h : Accounted l n s t) (hr : readsOf l = [])
    (m : Nat) : t.env.rx.length + (arrivalsOf m t.env).length =
      s.env.rx.length + (arrivalsOf (n + m) s.env).length := by
  have hrx : t.env.rx = s.env.rx ++ arrivalsOf n s.env := by simpa [hr] using h.taken
  have hlater := arrivalsOf_congr m (e' := { s.env with script := s.env.script.drop n }) h.script h.rest
  rw [hrx, arrivalsOf_add, hlater, List.length_append, List.length_append, Nat.add_assoc]

/-- A drain still ends after `n` of the calls before it, if they read nothing. -/
theorem Accounted.drainEnds {l : List Call} {n m : Nat} {s t : State} (h : Accounted l n s t) (hr : readsOf l = [])
    (hd : DrainEnds (n + m) s.env) : DrainEnds m t.env := by
  obtain ⟨k, hk⟩ := hd
  exact ⟨k, by simpa [h.arrived hr, Nat.add_assoc] using hk⟩

/-- Sending reads nothing. -/
theorem readsOf_sendCalls (n : Nat) (w : U64) : readsOf (sendCalls n w) = [] := by
  have : ∀ bs : List U8, readsOf (bs.map Call.write) = [] := fun bs => by
    induction bs with
    | nil => rfl
    | cons b bs ih => exact ih
  exact this _

/-- A listen with a drain that ends is over within the ticks that the run of an operation allows (log 11). -/
theorem EndsIn.listen_callBound {s : State} (h : Answered s) (hp : s.phase = .draining) (hq : s.regs.point = .first)
    (hd : DrainEnds 0 s.env) : EndsIn (callBound s) s := by
  obtain ⟨k, hk, hb⟩ := hd.bounded
  rw [Nat.zero_add] at hk
  exact (EndsIn.listen h hp hq hk).mono (by unfold callBound; omega)

/-- Sending moves TXI and nothing else inside the block. -/
theorem bytesSent_frame (m : Nat) (s : State) :
    (bytesSent m s).regs = { s.regs with txi := s.regs.txi + m } ∧ (bytesSent m s).phase = s.phase ∧
    (bytesSent m s).params = s.params ∧ (bytesSent m s).inbox = s.inbox ∧
    (bytesSent m s).completions = s.completions := by
  induction m generalizing s with
  | zero => exact ⟨rfl, rfl, rfl, rfl, rfl⟩
  | succ m ih => simpa [bytesSent_succ, byteSent, Nat.add_assoc, Nat.add_comm 1] using ih (byteSent (elapse s))

theorem datagramSent_frame (n : Nat) (s : State) :
    (datagramSent n s).regs = { s.regs with point := .act, txi := s.regs.txi + n } ∧
    (datagramSent n s).phase = s.phase ∧ (datagramSent n s).params = s.params ∧
    (datagramSent n s).inbox = s.inbox ∧ (datagramSent n s).completions = s.completions :=
  bytesSent_frame n (setPoint .act (chanFlush (elapse s)))

/-! ### A listen under either operation -/

/-- The state with another operation in progress and other completions presented. -/
def withOp (o : Op) (ds : List Completion) (s : State) : State :=
  { s with regs := { s.regs with op := o }, completions := ds }

/-- The two states differ at most in the completions and, but for SENDING, in the operation in progress. -/
def SameButOp (s t : State) : Prop :=
  t = withOp t.regs.op t.completions s ∧ (s.phase = .sending → t.regs.op = s.regs.op)

theorem sameButOp_iff {s t : State} :
    SameButOp s t ↔ ∃ o ds, t = withOp o ds s ∧ (s.phase = .sending → o = s.regs.op) :=
  ⟨fun h => ⟨_, _, h⟩, by rintro ⟨o, ds, rfl, h⟩; exact ⟨rfl, h⟩⟩

theorem sameButOp_withOp {s : State} (o : Op) (ds : List Completion) (h : s.phase ≠ .sending) :
    SameButOp s (withOp o ds s) := ⟨rfl, fun hp => absurd hp h⟩

theorem sameButOp_completions (s : State) (ds : List Completion) : SameButOp s (withOp s.regs.op ds s) :=
  ⟨rfl, fun _ => rfl⟩

theorem sameButOp_ite {c : Prop} [Decidable c] {s s' t t' : State} (ht : SameButOp s s') (he : SameButOp t t') :
    SameButOp (if c then s else t) (if c then s' else t') := by
  split
  · exact ht
  · exact he

section
variable (o : Op) (ds : List Completion) (s : State)

/-- What completes presents its own result. -/
theorem sameButOp_complete (v v' : Result) (st st' : Status) :
    SameButOp (complete v st s) (complete v' st' (withOp o ds s)) := ⟨rfl, nofun⟩

theorem sameButOp_finishListening (st : Status) :
    SameButOp (finishListening st s) (finishListening st (withOp o ds s)) := by
  obtain ⟨v, x, e⟩ := finishListening_spec st s
  obtain ⟨v', x', e'⟩ := finishListening_spec st (withOp o ds s)
  rw [e, e']
  exact sameButOp_complete o ds s v v' x x'

theorem sameButOp_sendByte : SameButOp (sendByte s) (sendByte (withOp s.regs.op ds s)) :=
  sameButOp_ite (sameButOp_completions (byteSent s) ds)
    (sameButOp_ite (sameButOp_withOp s.regs.op ds (s := enterDraining (byteSent s)) nofun)
      (sameButOp_complete s.regs.op ds (byteSent s) _ _ _ _))

theorem sameButOp_drainTest (hp : s.phase ≠ .sending) : SameButOp (drainTest s) (drainTest (withOp o ds s)) :=
  sameButOp_ite (sameButOp_withOp o ds (s := enterWaiting (chanAvail s)) nofun)
    (sameButOp_withOp o ds (s := setPoint .act (chanAvail s)) hp)

theorem sameButOp_pollTest (hp : s.phase ≠ .sending) : SameButOp (pollTest s) (pollTest (withOp o ds s)) :=
  sameButOp_ite (sameButOp_withOp o ds (s := enterComplete (chanAvail s)) nofun)
    (sameButOp_ite (sameButOp_withOp o ds (s := enterTimedOut (chanAvail s)) nofun)
      (sameButOp_withOp o ds (s := setPoint .act (chanAvail s)) hp))

theorem sameButOp_takeByte (b : U8) (hp : s.phase ≠ .sending) :
    SameButOp (takeByte b s) (takeByte b (withOp o ds s)) :=
  sameButOp_ite (sameButOp_withOp o ds (s := byteTaken b s) hp) (sameButOp_finishListening o ds (byteTaken b s) .ok)

end

theorem sameButOp_afterCall {s t : State} (h : SameButOp s t) : SameButOp (afterCall s) (afterCall t) := by
  obtain ⟨o, ds, rfl, ho⟩ := sameButOp_iff.mp h
  obtain ⟨p, ph, ⟨op, addr, reg, value, cp, dgram, txn, txi, cnt, raw, rxi, point⟩, e, ib, cs, ds'⟩ := s
  cases ph with
  | idle | timedOut => exact ⟨rfl, nofun⟩
  | sending =>
    obtain rfl : o = op := ho rfl
    cases point with
    | first => exact sameButOp_completions _ ds
    | test | act => exact sameButOp_sendByte ds _
  | draining =>
    cases point with
    | first | act => exact ⟨rfl, nofun⟩
    | test => exact sameButOp_drainTest o ds _ nofun
  | waiting =>
    cases point with
    | first | act => exact ⟨rfl, nofun⟩
    | test => exact sameButOp_pollTest o ds _ nofun
  | complete => exact sameButOp_takeByte o ds _ _ nofun

theorem sameButOp_started {s t : State} (i : Instr) (hp : s.phase = .idle) (h : SameButOp s t) :
    SameButOp (started s i) (started t i) := by
  obtain ⟨o, ds, rfl, -⟩ := sameButOp_iff.mp h
  obtain ⟨p, ph, g, e, ib, cs, ds'⟩ := s
  obtain rfl : ph = .idle := hp
  cases i with
  | write c | request c | awaitReply c | read c => cases c <;> exact ⟨rfl, fun _ => rfl⟩
  | byteCRC | wordCRC | startSeed | reverseBytes | encodeWrite | encodeRequest | decodeResponse
  | writeDatagram | requestDatagram | responseDatagram => exact ⟨rfl, nofun⟩

/-- Two blocks that differ in the listening operation make the same calls. -/
theorem simulation_sameButOp : Simulation SameButOp where
  phase := fun h => by rw [h.1]; rfl
  env := fun h => by rw [h.1]; rfl
  params := fun h => by rw [h.1]; rfl
  reading := fun h => by rw [h.1]; rfl
  elapse := by
    rintro s t h
    obtain ⟨o, ds, rfl, ho⟩ := sameButOp_iff.mp h
    exact ⟨rfl, ho⟩
  applyReset := by
    rintro s t h
    obtain ⟨o, ds, rfl, -⟩ := sameButOp_iff.mp h
    exact ⟨rfl, nofun⟩
  afterCall := sameButOp_afterCall
  expire := by
    rintro s t - h
    obtain ⟨o, ds, rfl, -⟩ := sameButOp_iff.mp h
    exact sameButOp_finishListening o ds { s with regs := { s.regs with raw := sentinel64 } } _
  started := sameButOp_started

/-- The end of a `read` presents the decoding of RAW (42_transport_driver.md R95). -/
theorem finishListening_read {s : State} (st : Status) (h : s.regs.op = .read) :
    finishListening st s =
      complete (.u32 (decodeResponse s.params s.regs.raw).1) (decodeResponse s.params s.regs.raw).2 s := by
  simp [finishListening, h]

/-- A listen under operation `o` with completions `ds` before its end: it is still in progress, or has ended by
`finishListening`. -/
inductive ListenRun (o : Op) (ds : List Completion) (u : State) : Prop where
  | on (hb : u.phase ≠ .idle) (hs : u.phase ≠ .sending) (ho : u.regs.op = o) (hc : u.completions = ds)
  | ended (st : Status) (v : State) (ho : v.regs.op = o) (hc : v.completions = ds) (hu : u = finishListening st v)

/-- What a returned call of a listen does keeps it one. -/
theorem ListenRun.returned {o : Op} {ds : List Completion} {u v : State} (hs : u.phase ≠ .sending)
    (ho : u.regs.op = o) (hc : u.completions = ds) (hr : Returned u v) : ListenRun o ds v := by
  cases hr with
  | sendFlush hp | sendByte hp => exact absurd hp hs
  | listenFlush hp | drainByte _ hp => exact .on (by simp [readDone, hp]) (by simp [readDone, hp]) ho hc
  | startPoll hp | pollAgain hp =>
    exact .on (by simp [startPoll, pollAgain, hp]) (by simp [startPoll, pollAgain, hp]) ho hc
  | drainTest hp =>
    rcases drainTest_cases u with ⟨-, e⟩ | ⟨-, e⟩ <;> rw [e] <;> exact .on (by simp [hp]) (by simp [hp]) ho hc
  | pollTest hp =>
    rcases pollTest_cases u with ⟨-, e⟩ | ⟨-, -, e⟩ | ⟨-, -, e⟩ <;> rw [e] <;>
      exact .on (by simp [hp]) (by simp [hp]) ho hc
  | takeByte b hp =>
    rcases takeByte_cases b (readDone b u) with ⟨-, e⟩ | ⟨-, e⟩ <;> rw [e]
    · exact .on (by simp [byteTaken, readDone, hp]) (by simp [byteTaken, readDone, hp]) ho hc
    · exact .ended .ok (byteTaken b (readDone b u)) ho hc rfl

theorem ListenRun.tick {o : Op} {ds : List Completion} {u v : State} (hb : u.phase ≠ .idle)
    (hpr : u.env.prompt = true) (h : ListenRun o ds u) (ht : tick u = .next v) : ListenRun o ds v := by
  cases h with
  | on _ hs ho hc =>
    rcases tick_cases hb ht with ⟨-, rfl⟩ | ⟨-, ⟨he, -⟩ | ⟨he, -⟩ | ⟨-, hr⟩⟩
    · exact .ended .replyTimeout { u with regs := { u.regs with raw := sentinel64 } } ho hc rfl
    · simp [Env.prompt_slot hpr] at he
    · simp [Env.prompt_slot hpr] at he
    · exact .returned (u := elapse u) hs ho hc hr
  | ended st v' _ _ hu =>
    obtain ⟨x, st', e⟩ := finishListening_spec st v'
    exact absurd (by rw [hu, e]; rfl) hb

/-- A listen that is over on a channel whose calls return has presented what `finishListening` presents. -/
theorem ListenRun.of_run {o : Op} {ds : List Completion} {n : Nat} {u v : State} (h : ListenRun o ds u)
    (hpr : u.env.prompt = true) (hrun : runOperation n u = .next v) (hv : v.phase = .idle) :
    ∃ st w, w.regs.op = o ∧ w.completions = ds ∧ v = finishListening st w := by
  obtain ⟨hl, -⟩ := runOperation_induction (P := fun u => ListenRun o ds u ∧ u.env.prompt = true)
    (fun _ _ hb ⟨hu, hup⟩ ht =>
      let ⟨_, _, hacc⟩ := tick_accounted hb ht
      ⟨hu.tick hb hup ht, hacc.prompt hup⟩)
    ⟨h, hpr⟩ hrun
  cases hl with
  | on hb => exact absurd hv hb
  | ended st w ho hc hu => exact ⟨st, w, ho, hc, hu⟩

/-- The completion of a lone `awaitReply` is RAW as the listen left it. -/
theorem ListenRun.awaitReply_completions {ds : List Completion} {n : Nat} {u v : State}
    (h : ListenRun .awaitReply ds u) (hpr : u.env.prompt = true) (hrun : runOperation n u = .next v)
    (hv : v.phase = .idle) : ∃ st, v.completions = ds ++ [⟨.awaitReply, .u64 v.regs.raw, st⟩] := by
  obtain ⟨st, w, ho, rfl, rfl⟩ := h.of_run hpr hrun hv
  exact ⟨st, by simp [finishListening_awaitReply st ho, ho]⟩

/-- The completion of a `read` is the decoding of RAW as the listen left it. -/
theorem ListenRun.read_completions {ds : List Completion} {n : Nat} {u v : State} (h : ListenRun .read ds u)
    (hpr : u.env.prompt = true) (hrun : runOperation n u = .next v) (hv : v.phase = .idle) :
    v.completions = ds ++
      [⟨.read, .u32 (decodeResponse v.params v.regs.raw).1, (decodeResponse v.params v.regs.raw).2⟩] := by
  obtain ⟨st, w, ho, rfl, rfl⟩ := h.of_run hpr hrun hv
  simp [finishListening_read st ho, ho]

/-! ### `read` is its parts in a row -/

/-- An operation that ends within the ticks allowed is accepted, run and completed in one `exec`. -/
theorem exec_of_run {s t : State} {i : Instr} {n : Nat} (hp : s.phase = .idle)
    (h : runOperation n (started s i) = .next t) (ht : t.phase = .idle) (hn : n ≤ callBound (started s i)) :
    exec i s = .next t := by
  rw [exec_eq_runToIdle_started hp, runToIdle, runOperation_mono h ht hn]

/-- `withOp` does not touch what sending does. -/
theorem datagramSent_withOp (n : Nat) (o : Op) (ds : List Completion) (s : State) :
    datagramSent n (withOp o ds s) = withOp o ds (datagramSent n s) :=
  have h : Function.Semiconj (withOp o ds) (fun u => byteSent (elapse u)) (fun u => byteSent (elapse u)) := fun _ => rfl
  ((h.iterate_right n) (setPoint .act (chanFlush (elapse s)))).symm

/-- A run leaves the parameters alone. -/
theorem runOperation_params {n : Nat} {s t : State} (h : runOperation n s = .next t) : t.params = s.params :=
  runOperation_induction (P := fun u => u.params = s.params) (fun _ _ hb hu ht => (tick_params hb ht).trans hu) rfl h

/-- The block after the five calls of a request, the operation not yet ended. -/
def requestSent (a r : U8) (s : State) : State := datagramSent 4 (started s (.request true a r))

/-- The listen of an `awaitReply` that follows a request. -/
def awaitAfterRequest (a r : U8) (s : State) : State :=
  enterDraining (captureAwait true (complete .none .ok (requestSent a r s)))

/-- The listen of a `read` once its request is sent. -/
def readAfterRequest (a r : U8) (s : State) : State :=
  enterDraining (withOp .read s.completions (requestSent a r s))

section
variable (a r : U8) (s : State)

theorem requestSent_frame :
    (requestSent a r s).regs.op = .request ∧ (requestSent a r s).regs.chanPresent = true ∧
    (requestSent a r s).params = s.params ∧ (requestSent a r s).completions = s.completions := by
  obtain ⟨hregs, -, hparams, -, hcompletions⟩ := datagramSent_frame 4 (started s (.request true a r))
  exact ⟨congrArg Regs.op hregs, congrArg Regs.chanPresent hregs, hparams, hcompletions⟩

/-- The two listens differ in the operation and the completions alone. -/
theorem sameButOp_afterRequest : SameButOp (awaitAfterRequest a r s) (readAfterRequest a r s) := by
  obtain ⟨-, hchan, -, -⟩ := requestSent_frame a r s
  refine ⟨?_, nofun⟩
  simp [awaitAfterRequest, readAfterRequest, withOp, enterDraining, captureAwait, complete, present, hchan]

theorem listenRun_awaitAfterRequest :
    ListenRun .awaitReply (complete .none .ok (requestSent a r s)).completions (awaitAfterRequest a r s) :=
  .on (by simp [awaitAfterRequest]) (by simp [awaitAfterRequest]) rfl rfl

theorem listenRun_readAfterRequest : ListenRun .read s.completions (readAfterRequest a r s) :=
  .on (by simp [readAfterRequest]) (by simp [readAfterRequest]) rfl (by simp [readAfterRequest, withOp])

variable {s} (hpr : s.env.prompt = true)
include hpr

theorem requestSent_accounted :
    Accounted (sendCalls 4 ((encodeRequest s.params a r).setWidth 64)) 5 s (requestSent a r s) :=
  have h := datagramSent_accounted (n := 4) (s := started s (.request true a r)) rfl (slotsAnswer_of_prompt 5 hpr)
  ⟨h.calls, h.answered, h.sent, h.taken, h.script, h.rest⟩

theorem runOperation_request :
    runOperation 5 (started s (.request true a r)) = .next (complete .none .ok (requestSent a r s)) := by
  obtain ⟨hop, -, -, -⟩ := requestSent_frame a r s
  have hrun := runOperation_datagramSent (m := 3) (s := started s (.request true a r)) rfl rfl rfl rfl
    (slotsAnswer_of_prompt 5 hpr)
  rw [hrun]
  exact congrArg _ (if_neg (hop.trans_ne (by decide)))

theorem runOperation_read :
    runOperation 5 (started s (.read true a r)) = .next (readAfterRequest a r s) := by
  have hrun := runOperation_datagramSent (m := 3) (s := started s (.read true a r)) rfl rfl rfl rfl
    (slotsAnswer_of_prompt 5 hpr)
  rw [hrun, show started s (.read true a r) = withOp .read s.completions (started s (.request true a r)) from rfl,
    datagramSent_withOp]
  rfl

theorem answered_awaitAfterRequest : Answered (awaitAfterRequest a r s) :=
  ⟨(inv_draining_iff rfl).mpr ⟨rfl, nofun⟩, (requestSent_accounted a r hpr).prompt hpr⟩

theorem answered_readAfterRequest : Answered (readAfterRequest a r s) := by
  obtain ⟨-, hchan, -, -⟩ := requestSent_frame a r s
  have hl : listening (readAfterRequest a r s) = true := by simp [listening, readAfterRequest, withOp, hchan]
  exact ⟨(inv_draining_iff rfl).mpr ⟨hl, nofun⟩, (requestSent_accounted a r hpr).prompt hpr⟩

/-- A `read` whose drain ends is over within the ticks that its run allows (log 11). -/
theorem EndsIn.read_callBound (hd : DrainEnds 5 s.env) :
    EndsIn (callBound (started s (.read true a r))) (started s (.read true a r)) := by
  obtain ⟨k, hk, hb⟩ := hd.bounded
  obtain ⟨-, -, hparams, -⟩ := requestSent_frame a r s
  have harr := (requestSent_accounted a r hpr).arrived (readsOf_sendCalls _ _) (2 * k + 2)
  have hlisten := EndsIn.listen (answered_readAfterRequest a r hpr) rfl rfl (harr.trans_le hk)
  refine (EndsIn.of_run (runOperation_read a r hpr) hlisten).mono ?_
  have hp : (readAfterRequest a r s).params = s.params := hparams
  have hc : callBound (started s (.read true a r)) = callBound s := rfl
  rw [hp, hc, callBound]
  omega

end

/-- The `read` ends beside the lone listen: same channel, same calls, same RAW (42_transport_driver.md R95). -/
theorem read_ends_as_awaitReply {s t u : State} {a r : U8} {m n : Nat} (hpr : s.env.prompt = true)
    (hread : runOperation m (started s (.read true a r)) = .next t) (ht : t.phase = .idle)
    (hawait : runOperation n (awaitAfterRequest a r s) = .next u) (hu : u.phase = .idle) :
    SameButOp u t ∧ runOperation n (readAfterRequest a r s) = .next t := by
  have hk := simulation_sameButOp.runOperation n (sameButOp_afterRequest a r s)
  rw [hawait] at hk
  generalize hr : runOperation n (readAfterRequest a r s) = o at hk
  cases hk with
  | next h =>
    have hrun := (runOperation_add (runOperation_read a r hpr)).trans hr
    obtain rfl := runOperation_idle_unique hread ht hrun ((simulation_sameButOp.phase h).trans hu)
    exact ⟨h, rfl⟩

/-- Settles O33: the listen of the `read` simulates that of the lone `awaitReply` after the request, call by call, and
both end by `finishListening` with the same RAW. -/
theorem readIsComposite : Obligations.ReadIsComposite := by
  intro s a r hp hpr hd
  have hsent := requestSent_accounted a r hpr
  obtain ⟨hop, -, -, hcompletions⟩ := requestSent_frame a r s
  obtain ⟨s2, hawait, hi2⟩ := EndsIn.listen_callBound (answered_awaitAfterRequest a r hpr) rfl rfl
    (hsent.drainEnds (m := 0) (readsOf_sendCalls _ _) hd)
  obtain ⟨t, hread, hit⟩ := EndsIn.read_callBound a r hpr hd
  obtain ⟨hsame, hlisten⟩ := read_ends_as_awaitReply hpr hread hit hawait hi2
  obtain ⟨st, hc2⟩ := (listenRun_awaitAfterRequest a r s).awaitReply_completions
    (answered_awaitAfterRequest a r hpr).2 hawait hi2
  have hct := (listenRun_readAfterRequest a r s).read_completions (answered_readAfterRequest a r hpr).2 hlisten hit
  have hraw : t.regs.raw = s2.regs.raw := by rw [hsame.1]; rfl
  have hcalls : t.calls = s2.calls := by rw [hsame.1]; rfl
  have hpt : t.params = s.params := (runOperation_params hread).trans (started_params s _)
  refine ⟨complete .none .ok (requestSent a r s), s2, t, s2.regs.raw, st, ?_, ?_, ?_, hc2, ?_, hit, hi2,
    simulation_sameButOp.env hsame, hcalls, ?_⟩
  · exact exec_of_run hp (runOperation_request a r hpr) rfl (by unfold callBound; omega)
  · rw [complete_completions, hcompletions, hop]
  · exact exec_of_run rfl hawait hi2 le_rfl
  · exact exec_of_run hp hread hit le_rfl
  · rw [hct, hraw, hpt]

end Sys2Proof.Machine

/-! ### The CRC engine as a bit-serial register

The engine clocks one data bit after another into an 8-bit register (spec/40_crc_engine.md R74, R75). `crcBits` is that
register over any stream of data bits, and `byteCRC`, `wordCRC`, the tap register and the most-significant-bit-first CRC
are all this register over some stream; the laws of R76 to R78 are laws of `crcBits`. -/

namespace Sys2Proof.Machine

/-! #### One round -/

/-- One round shifts the register and folds the polynomial in when the bit shifted out differs from the data bit. -/
theorem crcRound_eq (poly s : U8) (d : Bool) :
    crcRound poly s d = (s <<< 1) ^^^ (if s.getLsbD 7 ^^ d then poly else 0) := by
  unfold crcRound
  cases s.getLsbD 7 ^^ d <;> simp

/-- What a round folds in is linear in the tap. -/
theorem ite_bxor (poly : U8) (t1 t2 : Bool) :
    (if t1 ^^ t2 then poly else 0) = (if t1 then poly else 0) ^^^ (if t2 then poly else 0) := by
  cases t1 <;> cases t2 <;> simp

/-- A round is linear in register and data bit together. -/
theorem crcRound_xor (poly s1 s2 : U8) (d1 d2 : Bool) :
    crcRound poly (s1 ^^^ s2) (d1 ^^ d2) = crcRound poly s1 d1 ^^^ crcRound poly s2 d2 := by
  simp only [crcRound_eq, BitVec.getLsbD_xor, BitVec.shiftLeft_xor_distrib, ite_bxor]
  ac_rfl

/-- A zero register stays zero under zero data (R70). -/
@[simp] theorem crcRound_zero_false (poly : U8) : crcRound poly 0 false = 0 := by simp [crcRound]

/-- A data bit on a zero register lands as the polynomial (R70). -/
@[simp] theorem crcRound_zero_true (poly : U8) : crcRound poly 0 true = poly := by simp [crcRound]

/-- Bit 0 after a round is the tap when the polynomial has its bit 0, since the shift brings a zero in. -/
theorem crcRound_getLsbD_zero {poly : U8} (hpoly : poly.getLsbD 0 = true) (s : U8) (d : Bool) :
    (crcRound poly s d).getLsbD 0 = (s.getLsbD 7 ^^ d) := by
  rw [crcRound_eq]
  cases s.getLsbD 7 ^^ d <;> simp [hpoly]

/-- The register before a round can be told from the register after it: bit 0 tells what was shifted out. -/
theorem crcRound_injective {poly : U8} (hpoly : poly.getLsbD 0 = true) (d : Bool) :
    Function.Injective fun s => crcRound poly s d := by
  intro s1 s2 (h : crcRound poly s1 d = crcRound poly s2 d)
  have htap : (s1.getLsbD 7 ^^ d) = (s2.getLsbD 7 ^^ d) := by
    rw [← crcRound_getLsbD_zero hpoly, h, crcRound_getLsbD_zero hpoly]
  have hshift : s1 <<< 1 = s2 <<< 1 := by
    rw [crcRound_eq, crcRound_eq, htap] at h
    exact BitVec.xor_left_inj _ |>.mp h
  refine BitVec.eq_of_getLsbD_eq fun i hi => ?_
  by_cases h7 : i = 7
  · subst h7
    exact Bool.xor_left_inj.mp htap
  · have hbit := congrArg (·.getLsbD (i + 1)) hshift
    simpa [show i + 1 < 8 by omega, ← BitVec.getLsbD_eq_getElem] using hbit

/-- The taps of polynomial 0x07 are at bits 0, 1 and 2 (R74). -/
theorem crcTapRound_eq_crcRound (s : U8) (d : Bool) : crcTapRound s d = crcRound 0x07#8 s d := by
  revert s d
  decide

/-! #### A stream of data bits -/

/-- The register after `n` rounds with the data bits `d 0`, …, `d (n - 1)`, in that order (R75). -/
def crcBits (poly : U8) (d : Nat → Bool) (n : Nat) (s : U8) : U8 :=
  (List.range n).foldl (fun acc k => crcRound poly acc (d k)) s

@[simp] theorem crcBits_zero (poly : U8) (d : Nat → Bool) (s : U8) : crcBits poly d 0 s = s := rfl

theorem crcBits_succ (poly : U8) (d : Nat → Bool) (n : Nat) (s : U8) :
    crcBits poly d (n + 1) s = crcRound poly (crcBits poly d n s) (d n) := by
  simp [crcBits, List.range_succ]

/-- The register is read on from where it stands. -/
theorem crcBits_add (poly : U8) (d : Nat → Bool) (m n : Nat) (s : U8) :
    crcBits poly d (m + n) s = crcBits poly (fun k => d (m + k)) n (crcBits poly d m s) := by
  simp [crcBits, List.range_add, List.foldl_map]

/-- Only the data bits clocked in matter. -/
theorem crcBits_congr {d d' : Nat → Bool} {n : Nat} (h : ∀ k < n, d k = d' k) (poly s : U8) :
    crcBits poly d n s = crcBits poly d' n s := by
  induction n with
  | zero => rfl
  | succ n ih => rw [crcBits_succ, crcBits_succ, ih fun k hk => h k (by omega), h n (by omega)]

/-- The register is linear in its start value and the data stream together (R76 (c)). -/
theorem crcBits_xor (poly : U8) (d1 d2 : Nat → Bool) (n : Nat) (s1 s2 : U8) :
    crcBits poly (fun k => d1 k ^^ d2 k) n (s1 ^^^ s2) = crcBits poly d1 n s1 ^^^ crcBits poly d2 n s2 := by
  induction n with
  | zero => rfl
  | succ n ih => rw [crcBits_succ, crcBits_succ, crcBits_succ, ih, crcRound_xor]

/-- The start value can be told from the register at the end. -/
theorem crcBits_injective {poly : U8} (hpoly : poly.getLsbD 0 = true) (d : Nat → Bool) (n : Nat) :
    Function.Injective (crcBits poly d n) := by
  induction n with
  | zero => exact fun _ _ h => h
  | succ n ih =>
    intro s1 s2 h
    rw [crcBits_succ, crcBits_succ] at h
    exact ih (crcRound_injective hpoly (d n) h)

/-- The model's rounds, which shift the data byte right, take its bits one after another. -/
theorem crcRounds_eq_crcBits (poly : U8) (n : Nat) (b s : U8) : crcRounds poly n b s = crcBits poly b.getLsbD n s := by
  induction n generalizing b s with
  | zero => rfl
  | succ n ih =>
    rw [crcRounds, ih, Nat.add_comm, crcBits_add]
    exact crcBits_congr (fun k _ => BitVec.getLsbD_ushiftRight b 1 k) poly _

/-- `byteCRC` clocks in the eight bits of its byte. -/
theorem byteCRC_eq_crcBits (p : Params) (b s : U8) : byteCRC p b s = crcBits p.poly b.getLsbD 8 s :=
  crcRounds_eq_crcBits p.poly 8 b s

/-- `byteCRC` of the byte that stands at bit `i` of a word clocks in eight bits of the word. -/
theorem byteCRC_extractLsb' {w : Nat} (p : Params) (v : BitVec w) (i : Nat) (s : U8) :
    byteCRC p (v.extractLsb' i 8) s = crcBits p.poly (fun k => v.getLsbD (i + k)) 8 s := by
  rw [byteCRC_eq_crcBits]
  exact crcBits_congr (fun k hk => by simp [hk]) p.poly s

/-- `wordCRC` clocks in the 32 bits of its value. -/
theorem wordCRC_eq_crcBits (p : Params) (v : U32) (s : U8) : wordCRC p v s = crcBits p.poly v.getLsbD 32 s := by
  simp only [wordCRC, byteCRC_extractLsb', ← crcBits_add p.poly v.getLsbD _ 8, Nat.zero_add]

/-! #### Linearity (R76 (c)) -/

theorem byteCRC_xor (p : Params) (b1 b2 s1 s2 : U8) :
    byteCRC p (b1 ^^^ b2) (s1 ^^^ s2) = byteCRC p b1 s1 ^^^ byteCRC p b2 s2 := by
  simp only [byteCRC_eq_crcBits, ← crcBits_xor]
  exact crcBits_congr (fun k _ => BitVec.getLsbD_xor) _ _

theorem wordCRC_xor (p : Params) (v1 v2 : U32) (s1 s2 : U8) :
    wordCRC p (v1 ^^^ v2) (s1 ^^^ s2) = wordCRC p v1 s1 ^^^ wordCRC p v2 s2 := by
  simp only [wordCRC_eq_crcBits, ← crcBits_xor]
  exact crcBits_congr (fun k _ => BitVec.getLsbD_xor) _ _

/-- Settles O13: bytes and words are streams of bits, and every round is linear. -/
theorem crcIsLinear : Obligations.CrcIsLinear := fun p => ⟨byteCRC_xor p, wordCRC_xor p⟩

/-! #### What the engine is (R74, R76 (d), R77) -/

/-- The tap register clocked eight times is the stream of the byte's bits under polynomial 0x07. -/
theorem crcTapByte_eq_crcBits (b s : U8) : crcTapByte b s = crcBits 0x07#8 b.getLsbD 8 s := by
  simp only [crcTapByte, crcTapRound_eq_crcRound, crcBits]

/-- Settles O10: both are the stream of the byte's bits. -/
theorem byteCrcIsTapRegister : Obligations.ByteCrcIsTapRegister := by
  intro s b sd hp hpoly
  rw [crcTapByte_eq_crcBits, ← hpoly, ← byteCRC_eq_crcBits]
  exact completePure_idle hp

/-- The bit clocked in next is the top of the reversed byte. -/
theorem bitrev8_getLsbD_seven (b : U8) : (bitrev8 b).getLsbD 7 = b.getLsbD 0 := by
  rw [bitrev8, BitVec.getLsbD_reverse]
  rfl

/-- The reversed byte moves up as the byte shifts right. -/
theorem bitrev8_ushiftRight_one (b : U8) : bitrev8 (b >>> 1) = bitrev8 b <<< 1 := by
  refine BitVec.eq_of_getLsbD_eq fun i hi => ?_
  simp only [bitrev8, BitVec.getLsbD_reverse, BitVec.getMsbD_ushiftRight, BitVec.getLsbD_shiftLeft, Bool.and_assoc]

/-- A round with a data bit is a round with the bit folded into the top of the register, under zero data: what the
reversed byte still holds moves up with the register. -/
theorem crcRound_bitrev8 (poly b s : U8) :
    crcRound poly (s ^^^ bitrev8 b) false = crcRound poly s (b.getLsbD 0) ^^^ bitrev8 (b >>> 1) := by
  simp only [crcRound_eq, BitVec.getLsbD_xor, BitVec.shiftLeft_xor_distrib, bitrev8_getLsbD_seven,
    bitrev8_ushiftRight_one, Bool.xor_false]
  ac_rfl

/-- After `n` rounds under zero data, the register that the reversed byte was folded into still holds the bits that have
not been clocked in. -/
theorem crcRounds_bitrev8 (poly : U8) (n : Nat) (b s : U8) :
    crcRounds poly n 0 (s ^^^ bitrev8 b) = crcRounds poly n b s ^^^ bitrev8 (b >>> n) := by
  induction n generalizing b s with
  | zero => simp [crcRounds]
  | succ n ih =>
    have hround : crcRound poly (s ^^^ bitrev8 b) ((0 : U8).getLsbD 0) = _ := crcRound_bitrev8 poly b s
    rw [crcRounds, crcRounds, hround, show (0 : U8) >>> 1 = 0 from rfl, ih, ← BitVec.shiftRight_add, Nat.add_comm 1 n]

/-- The data folds into the register bit-reversed (R76 (d)), whatever the polynomial. -/
theorem byteCRC_eq_byteCRC_zero (p : Params) (b s : U8) : byteCRC p b s = byteCRC p 0 (s ^^^ bitrev8 b) := by
  have hgone : b >>> 8 = 0 := BitVec.ushiftRight_eq_zero le_rfl
  rw [byteCRC, byteCRC, crcRounds_bitrev8, hgone, show bitrev8 0 = 0#8 from rfl, BitVec.xor_zero]

/-- The most-significant-bit-first CRC folds its byte in and clocks eight zero bits. -/
theorem crc8MsbFirst_eq_crcBits (b s : U8) : crc8MsbFirst b s = crcBits 0x07#8 (0 : U8).getLsbD 8 (s ^^^ b) := by
  simp [crc8MsbFirst, crcBits, crcRound]

/-- Settles O14: the byte folds in bit-reversed, and what follows is the most-significant-bit-first register. -/
theorem crcIsMsbFirstOfReversedByte : Obligations.CrcIsMsbFirstOfReversedByte := by
  intro p b s hpoly
  refine ⟨byteCRC_eq_byteCRC_zero p b s, ?_⟩
  rw [byteCRC_eq_byteCRC_zero, crc8MsbFirst_eq_crcBits, byteCRC_eq_crcBits, hpoly]

theorem bitrev8_injective : Function.Injective bitrev8 := fun b1 b2 h => by
  rw [← BitVec.reverse_reverse_eq (x := b1), ← BitVec.reverse_reverse_eq (x := b2)]
  exact congrArg BitVec.reverse h

/-- Settles O15: every round can be undone, and a byte enters as its reversal folded into the register. -/
theorem crcIsBijective : Obligations.CrcIsBijective := by
  intro p hpoly
  have hodd : p.poly.getLsbD 0 = true := by rw [hpoly]; rfl
  have hreg : ∀ b : U8, Function.Injective fun s => byteCRC p b s := fun b => by
    simpa only [byteCRC_eq_crcBits] using crcBits_injective hodd b.getLsbD 8
  refine ⟨fun b => Finite.injective_iff_bijective.mp (hreg b), fun s => Finite.injective_iff_bijective.mp ?_⟩
  intro b1 b2 (h : byteCRC p b1 s = byteCRC p b2 s)
  rw [byteCRC_eq_byteCRC_zero, byteCRC_eq_byteCRC_zero p b2] at h
  exact bitrev8_injective ((BitVec.xor_right_inj s).mp (hreg 0 h))

/-! #### Words, start seeds, whole datagrams (R71, R72, R79) -/

/-- Settles O11: the fold over the four byte positions is the model's chain. -/
theorem wordCrcFoldsLowByteFirst : Obligations.WordCrcFoldsLowByteFirst := by
  intro s v sd hp
  refine ⟨completePure_idle hp, fun hpoly => ?_⟩
  simp [wordCRC, byteCRC, hpoly, crcRounds, crcRound]

/-- The seeds of the four devices on the shared bus. -/
@[simp] theorem startSeed_zero (p : Params) : startSeed p 0x00#8 = p.seed0 := rfl
@[simp] theorem startSeed_one (p : Params) : startSeed p 0x01#8 = p.seed1 := rfl
@[simp] theorem startSeed_two (p : Params) : startSeed p 0x02#8 = p.seed2 := rfl
@[simp] theorem startSeed_three (p : Params) : startSeed p 0x03#8 = p.seed3 := rfl

/-- Every other address has the fallback seed, whatever its low bits. -/
theorem startSeed_of_four_le {p : Params} {a : U8} (h : 4 ≤ a.toNat) : startSeed p a = p.seedOther := by
  have hne : ∀ b : U8, b.toNat < 4 → a ≠ b := by
    rintro b hb rfl
    omega
  rw [startSeed, if_neg (hne _ (by decide)), if_neg (hne _ (by decide)), if_neg (hne _ (by decide)),
    if_neg (hne _ (by decide))]

/-- The addresses below 4, one by one. -/
theorem address_cases {a : U8} (h : a.toNat < 4) : a = 0x00#8 ∨ a = 0x01#8 ∨ a = 0x02#8 ∨ a = 0x03#8 := by
  simp only [← BitVec.toNat_inj, BitVec.toNat_ofNat]
  omega

/-- Nonzero distinct constants give the four devices nonzero seeds. -/
theorem startSeed_ne_zero {p : Params} (hp : p.seedsDistinctNonzero = true) {a : U8} (ha : a.toNat < 4) :
    startSeed p a ≠ 0x00#8 := by
  simp only [Params.seedsDistinctNonzero, Bool.and_eq_true, bne_iff_ne] at hp
  rcases address_cases ha with rfl | rfl | rfl | rfl <;> simp_all

/-- Nonzero distinct constants give the four devices distinct seeds. -/
theorem startSeed_injOn {p : Params} (hp : p.seedsDistinctNonzero = true) {a b : U8} (ha : a.toNat < 4)
    (hb : b.toNat < 4) (hne : b ≠ a) : startSeed p b ≠ startSeed p a := by
  intro h
  simp only [Params.seedsDistinctNonzero, Bool.and_eq_true, bne_iff_ne] at hp
  rcases address_cases ha with rfl | rfl | rfl | rfl <;> rcases address_cases hb with rfl | rfl | rfl | rfl <;>
    simp_all

/-- Settles O12: the address is compared whole, so the four devices have their constants and the rest the fallback. -/
theorem startSeedByAddress : Obligations.StartSeedByAddress := by
  intro s a hp
  have heq : ∀ b : U8, a.toNat = b.toNat → startSeed s.params a = startSeed s.params b := fun b h => by
    rw [BitVec.eq_of_toNat_eq h]
  refine ⟨startSeed s.params a, completePure_idle hp, heq 0x00#8, heq 0x01#8, heq 0x02#8, heq 0x03#8,
    startSeed_of_four_le, fun h0 h => (startSeed_of_four_le h).trans h0, fun hd ha =>
      ⟨startSeed_ne_zero hd ha, fun b hb hne => startSeed_injOn hd ha hb hne⟩⟩

/-- The bytes of a word before its byte `n`, and byte `n`. -/
theorem wireBytes_succ (n : Nat) (w : U64) : wireBytes (n + 1) w = wireBytes n w ++ [byteAt w n] := by
  simp [wireBytes, List.range_succ]

/-- The bytes of a write datagram's word before its CRC byte, and that byte (30_encoding.md R51). -/
theorem wireBytes_write (y a f : U8) (d : U32) (c : U8) :
    wireBytes 7 (c ++ d ++ f ++ a ++ y) = y :: a :: f :: bytesOf 4 d ∧ byteAt (c ++ d ++ f ++ a ++ y) 7 = c := by
  obtain ⟨-, h⟩ := Frame.wire.inj (wireBytes_writeWord y a f d c)
  rw [wireBytes_succ] at h
  simpa using List.append_inj' (s₂ := y :: a :: f :: bytesOf 4 d) h rfl

/-- The bytes of a request datagram's word before its CRC byte, and that byte (R52). -/
theorem wireBytes_request (y a f c : U8) :
    wireBytes 3 ((c ++ f ++ a ++ y).setWidth 64) = [y, a, f] ∧ byteAt ((c ++ f ++ a ++ y).setWidth 64) 3 = c := by
  obtain ⟨-, h⟩ := Frame.wire.inj (wireBytes_requestWord y a f c)
  rw [wireBytes_succ] at h
  simpa using List.append_inj' (s₂ := [y, a, f]) h rfl

/-- Each default seed is the CRC of the sync byte and the address. -/
theorem startSeed_default {a : U8} (h : a.toNat < 4) : startSeed Params.default a =
    byteCRC Params.default a (byteCRC Params.default Params.default.sync 0) := by
  rcases address_cases h with rfl | rfl | rfl | rfl <;> simp [Params.default, byteCRC, crcRounds, crcRound]

/-- The default response seed is the CRC of the sync byte and the master's address 0xFF. -/
theorem rseed_default :
    Params.default.rseed = byteCRC Params.default 0xFF (byteCRC Params.default Params.default.sync 0) := by
  simp [Params.default, byteCRC, crcRounds, crcRound]

/-- Settles O16: the seed stands for the sync byte and the address, and the CRC byte goes on from there. -/
theorem defaultSeedsCoverWholeDatagram : Obligations.DefaultSeedsCoverWholeDatagram := by
  refine ⟨fun a h => startSeed_default h, rseed_default, by decide, fun a r v h => ⟨?_, ?_⟩⟩
  · obtain ⟨hbytes, hcrc⟩ := wireBytes_write Params.default.sync a _ _ _
    rw [encodeWrite, hbytes, hcrc, writeCrc, startSeed_default h]
    rfl
  · obtain ⟨hbytes, hcrc⟩ := wireBytes_request Params.default.sync a _ _
    rw [encodeRequest, hbytes, hcrc, requestCrc, startSeed_default h]
    rfl

/-! #### Flipped bits of a response (R78) -/

@[simp] theorem responseField_xor (x y : U64) : responseField (x ^^^ y) = responseField x ^^^ responseField y :=
  BitVec.extractLsb'_xor

@[simp] theorem responsePayload_xor (x y : U64) :
    responsePayload (x ^^^ y) = responsePayload x ^^^ responsePayload y :=
  BitVec.extractLsb'_xor

@[simp] theorem receivedCrc_xor (x y : U64) : receivedCrc (x ^^^ y) = receivedCrc x ^^^ receivedCrc y :=
  BitVec.extractLsb'_xor

theorem receivedCrc_getLsbD (e : U64) {k : Nat} (hk : k < 8) : (receivedCrc e).getLsbD k = e.getLsbD (56 + k) := by
  simp [receivedCrc, hk]

/-- The syndrome of a flip pattern: its own CRC from 0x00 against the flips of the CRC byte. -/
def syndrome (p : Params) (e : U64) : U8 :=
  wordCRC p (responsePayload e) (byteCRC p (responseField e) 0) ^^^ receivedCrc e

/-- A pattern passes exactly when its syndrome is zero. -/
theorem flipPasses_iff (p : Params) (e : U64) : flipPasses p e = true ↔ syndrome p e = 0 := by
  rw [flipPasses, beq_iff_eq, syndrome]
  exact BitVec.xor_eq_zero_iff.symm

theorem syndrome_xor (p : Params) (x y : U64) : syndrome p (x ^^^ y) = syndrome p x ^^^ syndrome p y := by
  have hzero : (0 : U8) = 0 ^^^ 0 := rfl
  simp only [syndrome, responseField_xor, responsePayload_xor, receivedCrc_xor]
  rw [hzero, byteCRC_xor, wordCRC_xor, ← hzero]
  ac_rfl

/-- The CRC that a response must carry changes by the pattern's own CRC from 0x00. -/
theorem responseCrc_xor (p : Params) (f1 f2 : U8) (d1 d2 : U32) :
    responseCrc p (f1 ^^^ f2) (d1 ^^^ d2) = responseCrc p f1 d1 ^^^ wordCRC p d2 (byteCRC p f2 0) := by
  have hzero : p.rseed ^^^ 0 = p.rseed := BitVec.xor_zero
  rw [responseCrc, responseCrc, ← wordCRC_xor, ← byteCRC_xor, hzero]

/-- On a word whose CRC matches, what matches after a flip depends on the flip alone. -/
theorem crcMatches_xor {p : Params} {raw : U64} (h : crcMatches p raw = true) (e : U64) :
    crcMatches p (raw ^^^ e) = flipPasses p e := by
  rw [crcMatches, beq_iff_eq] at h
  rw [Bool.eq_iff_iff, crcMatches, flipPasses, beq_iff_eq, beq_iff_eq, responseField_xor, responsePayload_xor,
    receivedCrc_xor, responseCrc_xor, h, BitVec.xor_right_inj, eq_comm]

theorem crcMatches_of_validResponse {p : Params} {raw : U64} (h : validResponse p raw = true) :
    crcMatches p raw = true := (Bool.and_eq_true_iff.mp h).2

/-- Settles O26: away from all ones a response is valid when its CRC matches. -/
theorem flipPassesByPatternAlone : Obligations.FlipPassesByPatternAlone := by
  intro p raw e hvalid hne
  rw [validResponse, bne_iff_ne.mpr hne, Bool.true_and, crcMatches_xor (crcMatches_of_validResponse hvalid)]

/-- A word whose CRC does not match is answered with the sentinel, as a timeout if it is all ones. -/
theorem decodeResponse_of_not_crcMatches {p : Params} {raw : U64} (h : crcMatches p raw = false) :
    (decodeResponse p raw).1 = 0xFFFFFFFF#32 ∧ (decodeResponse p raw).2 ≠ .ok := by
  unfold decodeResponse
  by_cases hones : raw = sentinel64
  · rw [if_pos hones]
    exact ⟨rfl, nofun⟩
  · rw [if_neg hones, h]
    exact ⟨rfl, nofun⟩

/-- The CRC over register field and payload clocks in bits 16 to 55 of the word. -/
theorem crc_fields_eq_crcBits (p : Params) (e : U64) (s : U8) :
    wordCRC p (responsePayload e) (byteCRC p (responseField e) s) =
      crcBits p.poly (fun k => e.getLsbD (16 + k)) 40 s := by
  rw [responseField, byteCRC_extractLsb', wordCRC_eq_crcBits, crcBits_add p.poly _ 8 32]
  exact crcBits_congr (fun k hk => by simp [responsePayload, hk, ← Nat.add_assoc]) _ _

/-! #### An odd number of flips: the parity of the register -/

/-- The parity of `n` bits. -/
def parity (d : Nat → Bool) (n : Nat) : Bool := (List.range n).foldl (fun acc k => acc ^^ d k) false

theorem parity_succ (d : Nat → Bool) (n : Nat) : parity d (n + 1) = (parity d n ^^ d n) := by
  simp [parity, List.range_succ]

theorem parity_add (d : Nat → Bool) (m n : Nat) :
    parity d (m + n) = (parity d m ^^ parity (fun k => d (m + k)) n) := by
  induction n with
  | zero => simp [parity]
  | succ n ih => rw [← Nat.add_assoc, parity_succ, parity_succ, ih, Bool.xor_assoc]

theorem parity_congr {d d' : Nat → Bool} {n : Nat} (h : ∀ k < n, d k = d' k) : parity d n = parity d' n := by
  induction n with
  | zero => rfl
  | succ n ih => rw [parity_succ, parity_succ, ih fun k hk => h k (by omega), h n (by omega)]

/-- The parity of an exclusive or, bit by bit. -/
theorem parity_xor (x y : U8) (n : Nat) :
    parity (x ^^^ y).getLsbD n = (parity x.getLsbD n ^^ parity y.getLsbD n) := by
  induction n with
  | zero => rfl
  | succ n ih =>
    rw [parity_succ, parity_succ, parity_succ, ih, BitVec.getLsbD_xor, Bool.xor_assoc, Bool.xor_assoc,
      Bool.xor_left_comm (parity y.getLsbD n)]

/-- The shift takes the bit shifted out from the parity of the register. -/
theorem parity_shiftLeft_one (s : U8) : parity (s <<< 1).getLsbD 8 = (parity s.getLsbD 8 ^^ s.getLsbD 7) := by
  have hup : parity (fun k => (s <<< 1).getLsbD (1 + k)) 7 = parity s.getLsbD 7 :=
    parity_congr fun k hk => by
      rw [BitVec.getLsbD_shiftLeft, decide_eq_true (p := 1 + k < 8) (by omega), Nat.add_sub_cancel_left]
      simp
  calc parity (s <<< 1).getLsbD (1 + 7) = (false ^^ parity s.getLsbD 7) := by
        rw [parity_add, hup]
        simp [parity]
    _ = (parity s.getLsbD (7 + 1) ^^ s.getLsbD 7) := by
        rw [parity_succ _ 7, Bool.xor_assoc, Bool.xor_self, Bool.xor_false, Bool.false_xor]

/-- A round adds the data bit to the parity of the register: what polynomial 0x07 folds in, three bits, makes up for the
bit shifted out. -/
theorem parity_crcRound (s : U8) (d : Bool) :
    parity (crcRound 0x07#8 s d).getLsbD 8 = (parity s.getLsbD 8 ^^ d) := by
  have hfold : ∀ t : Bool, parity (if t then 0x07#8 else 0).getLsbD 8 = t := by decide
  rw [crcRound_eq, parity_xor, parity_shiftLeft_one, hfold, Bool.xor_assoc, ← Bool.xor_assoc (s.getLsbD 7),
    Bool.xor_self, Bool.false_xor]

/-- The parity of the register is that of its start value and the data (x + 1 divides x^8 + x^2 + x + 1). -/
theorem parity_crcBits (d : Nat → Bool) (n : Nat) (s : U8) :
    parity (crcBits 0x07#8 d n s).getLsbD 8 = (parity s.getLsbD 8 ^^ parity d n) := by
  induction n with
  | zero => simp [parity]
  | succ n ih => rw [crcBits_succ, parity_crcRound, ih, parity_succ d, Bool.xor_assoc]

/-- The parity of a word whose first two bytes are zero is that of its register field, payload and CRC. -/
theorem oddBits_eq {e : U64} (hlow : e.extractLsb' 0 16 = 0) :
    oddBits e = (parity (fun k => e.getLsbD (16 + k)) 40 ^^ parity (receivedCrc e).getLsbD 8) := by
  have hzero : parity e.getLsbD 16 = false :=
    parity_congr (d' := fun _ => false) fun k hk => by
      simpa [hk] using congrArg (·.getLsbD k) hlow
  have hcrc : parity (fun k => e.getLsbD (16 + 40 + k)) 8 = parity (receivedCrc e).getLsbD 8 :=
    parity_congr fun k hk => (receivedCrc_getLsbD e hk).symm
  calc oddBits e = parity e.getLsbD (16 + 40 + 8) := rfl
    _ = _ := by rw [parity_add, parity_add, hzero, hcrc, Bool.false_xor]

/-- A pattern that passes flips an even number of bits. -/
theorem oddBits_of_flipPasses {p : Params} {e : U64} (hpoly : p.poly = 0x07#8) (hlow : e.extractLsb' 0 16 = 0)
    (h : flipPasses p e = true) : oddBits e = false := by
  rw [flipPasses, beq_iff_eq, crc_fields_eq_crcBits, hpoly] at h
  rw [oddBits_eq hlow, ← h, parity_crcBits]
  simp [parity]

/-! #### Two flips: the powers of x

The register is a polynomial modulo x^8 + x^2 + x + 1, bit k the coefficient of x^k. -/

/-- The register under zero data: multiplication by x. -/
def crcShift (s : U8) : U8 := crcRound 0x07#8 s false

theorem crcShift_injective : Function.Injective crcShift := crcRound_injective rfl false

/-- Under zero data the register is multiplied by x every round. -/
theorem crcBits_false (n : Nat) (s : U8) : crcBits 0x07#8 (fun _ => false) n s = crcShift^[n] s := by
  induction n with
  | zero => rfl
  | succ n ih => exact (crcBits_succ _ _ n s).trans (by rw [ih, Function.iterate_succ_apply', crcShift])

theorem crcShift_iterate_zero (n : Nat) : crcShift^[n] 0 = 0 :=
  Function.iterate_fixed (f := crcShift) (crcRound_zero_false _) n

/-- The polynomial is x^8. -/
theorem crcShift_iterate_eight : crcShift^[8] 1 = 0x07#8 := rfl

/-- A single data bit lands as the polynomial and is multiplied by x in every round after it. -/
theorem crcBits_single (k m : Nat) :
    crcBits 0x07#8 (fun i => decide (i = k)) (k + 1 + m) 0 = crcShift^[m + 8] 1 := by
  have hbefore : crcBits 0x07#8 (fun i => decide (i = k)) k 0 = 0 := by
    rw [crcBits_congr (d' := fun _ => false) (fun i hi => by simp [hi.ne]), crcBits_false, crcShift_iterate_zero]
  have hafter : ∀ i < m, decide (k + 1 + i = k) = false := fun i _ => decide_eq_false (by omega)
  rw [crcBits_add, crcBits_succ, hbefore, decide_eq_true rfl, crcRound_zero_true, crcBits_congr hafter, crcBits_false,
    Function.iterate_add_apply, crcShift_iterate_eight]

/-- The power of x that stands at a bit of a response: the bits of the fields come in from x^47 down to x^8, and the
received CRC is compared bit for bit. -/
def bitPower (i : Nat) : Nat := if i < 56 then 63 - i else i - 56

theorem bitPower_lt {i : Nat} (h : 16 ≤ i) (h' : i < 64) : bitPower i < 48 := by
  unfold bitPower
  split <;> omega

theorem bitPower_ne {i j : Nat} (h : 16 ≤ i) (hij : i < j) (h' : j < 64) : bitPower i ≠ bitPower j := by
  unfold bitPower
  split <;> split <;> omega

/-- The first eight powers of x are the bits of the register. -/
theorem crcShift_iterate_lt_eight {m : Nat} (h : m < 8) : crcShift^[m] 1 = BitVec.twoPow 8 m := by
  revert m
  decide

/-- A bit below bit 56 is not in the received CRC. -/
theorem receivedCrc_twoPow_of_lt {i : Nat} (h : i < 56) : receivedCrc (BitVec.twoPow 64 i) = 0#8 := by
  refine BitVec.eq_of_getLsbD_eq fun k hk => ?_
  rw [receivedCrc_getLsbD _ hk, BitVec.getLsbD_twoPow, decide_eq_false (p := i = 56 + k) (by omega), Bool.and_false,
    BitVec.getLsbD_zero]

/-- A bit from bit 56 up is a bit of the received CRC. -/
theorem receivedCrc_twoPow_of_le {i : Nat} (h : 56 ≤ i) (h' : i < 64) :
    receivedCrc (BitVec.twoPow 64 i) = BitVec.twoPow 8 (i - 56) := by
  refine BitVec.eq_of_getLsbD_eq fun k hk => ?_
  rw [receivedCrc_getLsbD _ hk, BitVec.getLsbD_twoPow, BitVec.getLsbD_twoPow, decide_eq_true h',
    decide_eq_true (p := i - 56 < 8) (by omega), Bool.true_and, Bool.true_and, decide_eq_decide]
  omega

/-- The syndrome of a single flipped bit is its power of x. -/
theorem syndrome_twoPow {p : Params} (hpoly : p.poly = 0x07#8) {i : Nat} (h : 16 ≤ i) (h' : i < 64) :
    syndrome p (BitVec.twoPow 64 i) = crcShift^[bitPower i] 1 := by
  rw [syndrome, crc_fields_eq_crcBits, hpoly]
  by_cases hfield : i < 56
  · have hbit : ∀ k < 40, (BitVec.twoPow 64 i).getLsbD (16 + k) = decide (k = i - 16) := fun k hk => by
      rw [BitVec.getLsbD_twoPow, decide_eq_true h', Bool.true_and, decide_eq_decide]
      omega
    have hlen : 40 = i - 16 + 1 + (55 - i) := by omega
    have hpow : 55 - i + 8 = bitPower i := by
      rw [bitPower, if_pos hfield]
      omega
    rw [receivedCrc_twoPow_of_lt hfield, BitVec.xor_zero, crcBits_congr hbit, hlen, crcBits_single, hpow]
  · have hbit : ∀ k < 40, (BitVec.twoPow 64 i).getLsbD (16 + k) = false := fun k hk => by
      rw [BitVec.getLsbD_twoPow, decide_eq_false (p := i = 16 + k) (by omega), Bool.and_false]
    rw [receivedCrc_twoPow_of_le (by omega) h', crcBits_congr hbit, crcBits_false, crcShift_iterate_zero, bitPower,
      if_neg hfield, crcShift_iterate_lt_eight (by omega)]
    exact BitVec.zero_xor

/-- No power of x below the 48th but the zeroth is 1, so the first 48 differ from one another. -/
theorem eq_zero_of_crcShift_iterate_eq_one {n : Nat} (h : n < 48) (h1 : crcShift^[n] 1 = 1) : n = 0 := by
  revert n
  decide

theorem crcShift_iterate_inj {m n : Nat} (hm : m < 48) (hn : n < 48) (h : crcShift^[m] 1 = crcShift^[n] 1) : m = n := by
  have h1 := eq_zero_of_crcShift_iterate_eq_one (by omega) (Function.iterate_cancel crcShift_injective h)
  have h2 := eq_zero_of_crcShift_iterate_eq_one (by omega) (Function.iterate_cancel crcShift_injective h.symm)
  omega

/-- A pattern of two bits does not pass. -/
theorem flipPasses_two_bits {p : Params} (hpoly : p.poly = 0x07#8) {i j : Nat} (hi : 16 ≤ i) (hij : i < j)
    (hj : j < 64) : flipPasses p (BitVec.twoPow 64 i ^^^ BitVec.twoPow 64 j) = false := by
  rw [Bool.eq_false_iff]
  intro h
  rw [flipPasses_iff, syndrome_xor, syndrome_twoPow hpoly hi (by omega), syndrome_twoPow hpoly (by omega) hj] at h
  exact bitPower_ne hi hij hj
    (crcShift_iterate_inj (bitPower_lt hi (by omega)) (bitPower_lt (by omega) hj) (BitVec.xor_eq_zero_iff.mp h))

/-- Settles O27: an odd pattern fails by parity, a pattern of two bits since the powers of x differ. -/
theorem smallCorruptionIsCaught : Obligations.SmallCorruptionIsCaught := by
  intro p raw e hpoly hvalid hlow hflips
  refine decodeResponse_of_not_crcMatches ?_
  rw [crcMatches_xor (crcMatches_of_validResponse hvalid)]
  rcases hflips with hodd | ⟨i, j, hi, hij, hj, rfl⟩
  · rw [Bool.eq_false_iff]
    intro h
    rw [oddBits_of_flipPasses hpoly hlow h] at hodd
    cases hodd
  · exact flipPasses_two_bits hpoly hi hij hj

end Sys2Proof.Machine

/-! ### The datagram codec

Byte reversal seen byte by byte and bit by bit, the fields of a datagram's word, and the decoder by its three outcomes
(spec/41_datagram_codec.md). -/

namespace Sys2Proof.Machine

/-! #### Byte reversal (R80, R81) -/

/-- The reversed word carries the payload bytes from the last to the first. -/
theorem reverseBytes_eq_payloadOfBytes (x : U32) : reverseBytes x =
    payloadOfBytes (payloadByte x 3) (payloadByte x 2) (payloadByte x 1) (payloadByte x 0) := rfl

/-- Byte `k` of the reversed word is byte `3 - k`. -/
theorem payloadByte_reverseBytes (x : U32) {k : Nat} (hk : k < 4) :
    payloadByte (reverseBytes x) k = payloadByte x (3 - k) := by
  obtain ⟨h0, h1, h2, h3⟩ := payloadByte_payloadOfBytes (payloadByte x 3) (payloadByte x 2) (payloadByte x 1)
    (payloadByte x 0)
  rw [← reverseBytes_eq_payloadOfBytes] at h0 h1 h2 h3
  match k, hk with
  | 0, _ => exact h0
  | 1, _ => exact h1
  | 2, _ => exact h2
  | 3, _ => exact h3

theorem reverseBytes_reverseBytes (x : U32) : reverseBytes (reverseBytes x) = x := by
  rw [reverseBytes_eq_payloadOfBytes, payloadByte_reverseBytes x (by decide), payloadByte_reverseBytes x (by decide),
    payloadByte_reverseBytes x (by decide), payloadByte_reverseBytes x (by decide)]
  exact payloadOfBytes_payloadByte x

theorem getLsbD_payloadByte (d : U32) (k : Nat) {j : Nat} (hj : j < 8) :
    (payloadByte d k).getLsbD j = d.getLsbD (8 * k + j) := by
  simp [payloadByte, hj]

/-- Bit `i` comes from the mirrored byte, at the same place in it. -/
theorem getLsbD_reverseBytes (x : U32) {i : Nat} (hi : i < 32) :
    (reverseBytes x).getLsbD i = x.getLsbD (8 * (3 - i / 8) + i % 8) := by
  have hj : i % 8 < 8 := Nat.mod_lt i (by decide)
  calc (reverseBytes x).getLsbD i
      = (reverseBytes x).getLsbD (8 * (i / 8) + i % 8) := by rw [Nat.div_add_mod]
    _ = (payloadByte (reverseBytes x) (i / 8)).getLsbD (i % 8) := (getLsbD_payloadByte _ _ hj).symm
    _ = x.getLsbD (8 * (3 - i / 8) + i % 8) := by
      rw [payloadByte_reverseBytes x (by omega), getLsbD_payloadByte _ _ hj]

theorem reverseBytes_xor (x y : U32) : reverseBytes (x ^^^ y) = reverseBytes x ^^^ reverseBytes y :=
  BitVec.eq_of_getLsbD_eq fun i hi => by simp only [BitVec.getLsbD_xor, getLsbD_reverseBytes _ hi]

/-- Settles O17: each byte of the result is the mirrored byte of the operand. -/
theorem reverseBytesSwapsEnds : Obligations.ReverseBytesSwapsEnds := by
  intro s x hp
  have hbyte : ∀ k < 4, payloadByte (reverseBytes x) k = payloadByte x (3 - k) := fun _ => payloadByte_reverseBytes x
  refine ⟨reverseBytes x, completePure_idle hp, hbyte 0 (by decide), hbyte 1 (by decide), hbyte 2 (by decide),
    hbyte 3 (by decide), ?_⟩
  rintro rfl
  decide

/-- Settles O18: mirroring the bytes twice gives the word back, and each bit has its place. -/
theorem reverseBytesSelfInverse : Obligations.ReverseBytesSelfInverse :=
  ⟨reverseBytes_reverseBytes, Function.Involutive.bijective reverseBytes_reverseBytes,
    fun x _ => getLsbD_reverseBytes x, reverseBytes_xor⟩

/-! #### The fields of a datagram (30_encoding.md R51 to R53) -/

/-- The fields of a long datagram's word: a write's and a response's. -/
theorem longWord_fields (c : U8) (d : U32) (f a y : U8) :
    (c ++ d ++ f ++ a ++ y).extractLsb' 0 8 = y ∧ (c ++ d ++ f ++ a ++ y).extractLsb' 8 8 = a ∧
    (c ++ d ++ f ++ a ++ y).extractLsb' 16 8 = f ∧ (c ++ d ++ f ++ a ++ y).extractLsb' 24 32 = d ∧
    (c ++ d ++ f ++ a ++ y).extractLsb' 56 8 = c := by
  simp only [BitVec.extractLsb'_append_eq_of_le, BitVec.extractLsb'_append_eq_right,
    BitVec.extractLsb'_eq_self, Nat.reduceLeDiff, Nat.reduceSub, and_self]

/-- The fields of a request's word. -/
theorem requestWord_fields (c f a y : U8) :
    (c ++ f ++ a ++ y).extractLsb' 0 8 = y ∧ (c ++ f ++ a ++ y).extractLsb' 8 8 = a ∧
    (c ++ f ++ a ++ y).extractLsb' 16 8 = f ∧ (c ++ f ++ a ++ y).extractLsb' 24 8 = c := by
  simp only [BitVec.extractLsb'_append_eq_of_le, BitVec.extractLsb'_append_eq_right,
    BitVec.extractLsb'_eq_self, Nat.reduceLeDiff, Nat.reduceSub, and_self]

/-- The payload bytes are bytes 3 to 6 of the word. -/
theorem payloadByte_responsePayload (w : U64) {k : Nat} (hk : k < 4) :
    payloadByte (responsePayload w) k = w.extractLsb' (24 + 8 * k) 8 :=
  BitVec.eq_of_getLsbD_eq fun i hi => by
    have hin : 8 * k + i < 32 := by omega
    simp [payloadByte, responsePayload, hi, hin, Nat.add_assoc]

/-- The write flag and the register number are the two parts of the register field (R55). -/
theorem flag_and_number {n : Nat} {w : BitVec n} {f : U8} (h : w.extractLsb' 16 8 = f) :
    w.getLsbD 23 = f.getLsbD 7 ∧ w.extractLsb' 16 7 = f.extractLsb' 0 7 := by
  subst h
  refine ⟨by simp, BitVec.eq_of_getLsbD_eq fun i hi => ?_⟩
  have hin : i < 8 := by omega
  simp [hi, hin]

/-- Setting the flag: bits 6:0 stay, and the operand's own bit 7 does not matter. -/
theorem or_80_flagged (r : U8) : (r ||| 0x80#8).getLsbD 7 = true ∧
    (r ||| 0x80#8).extractLsb' 0 7 = r.extractLsb' 0 7 ∧
    (r ||| 0x80#8) ||| 0x80#8 = r ||| 0x80#8 ∧ (r &&& 0x7F#8) ||| 0x80#8 = r ||| 0x80#8 := by
  revert r
  decide

/-- Clearing the flag: bits 6:0 stay, and the operand's own bit 7 does not matter. -/
theorem and_7F_unflagged (r : U8) : (r &&& 0x7F#8).getLsbD 7 = false ∧
    (r &&& 0x7F#8).extractLsb' 0 7 = r.extractLsb' 0 7 ∧
    (r ||| 0x80#8) &&& 0x7F#8 = r &&& 0x7F#8 ∧ (r &&& 0x7F#8) &&& 0x7F#8 = r &&& 0x7F#8 := by
  revert r
  decide

theorem writeField_force {p : Params} (hp : p.flagPolicy = .force) (r : U8) : writeField p r = r ||| 0x80#8 := by
  simp [writeField, hp]

theorem requestField_force {p : Params} (hp : p.flagPolicy = .force) (r : U8) :
    requestField p r = r &&& 0x7F#8 := by
  simp [requestField, hp]

/-! #### The encoders (R82, R83) -/

theorem encodeWrite_fields (p : Params) (a r : U8) (v : U32) :
    (encodeWrite p a r v).extractLsb' 0 8 = p.sync ∧ (encodeWrite p a r v).extractLsb' 8 8 = a ∧
    (encodeWrite p a r v).extractLsb' 16 8 = writeField p r ∧
    (encodeWrite p a r v).extractLsb' 24 32 = reverseBytes v ∧
    (encodeWrite p a r v).extractLsb' 56 8 = writeCrc p a (writeField p r) (reverseBytes v) :=
  longWord_fields ..

theorem encodeRequest_fields (p : Params) (a r : U8) :
    (encodeRequest p a r).extractLsb' 0 8 = p.sync ∧ (encodeRequest p a r).extractLsb' 8 8 = a ∧
    (encodeRequest p a r).extractLsb' 16 8 = requestField p r ∧
    (encodeRequest p a r).extractLsb' 24 8 = requestCrc p a (requestField p r) :=
  requestWord_fields ..

/-- The encoder sees the register operand through its field alone. -/
theorem encodeWrite_congr {p : Params} {a r r' : U8} {v : U32} (h : writeField p r = writeField p r') :
    encodeWrite p a r v = encodeWrite p a r' v := by
  rw [encodeWrite, h, ← encodeWrite]

theorem encodeRequest_congr {p : Params} {a r r' : U8} (h : requestField p r = requestField p r') :
    encodeRequest p a r = encodeRequest p a r' := by
  rw [encodeRequest, h, ← encodeRequest]

/-- The payload goes out most significant byte first (30_encoding.md R56). -/
theorem encodeWrite_payloadByte (p : Params) (a r : U8) (v : U32) {k : Nat} (hk : k < 4) :
    (encodeWrite p a r v).extractLsb' (24 + 8 * k) 8 = payloadByte v (3 - k) := by
  obtain ⟨-, -, -, hpay, -⟩ := encodeWrite_fields p a r v
  rw [← payloadByte_responsePayload _ hk, responsePayload, hpay, payloadByte_reverseBytes v hk]

/-- A word whose first byte is not 0xFF is not all ones. -/
theorem encodeWrite_ne_sentinel64 {p : Params} (a r : U8) (v : U32) (h : p.sync ≠ 0xFF#8) :
    encodeWrite p a r v ≠ sentinel64 := by
  intro hw
  obtain ⟨hsync, -⟩ := encodeWrite_fields p a r v
  rw [hw] at hsync
  exact h hsync.symm

/-- Two of the spec's worked examples, under the default parameters (R82, 95_test_vectors.md). -/
theorem encodeWrite_default_examples :
    encodeWrite Params.default 0x00 0x10 0x00061F0A = 0x9E0A1F0600900005#64 ∧
    encodeWrite Params.default 0x03 0x7F 0xFFFFFFFF = 0x56FFFFFFFFFF0305#64 := by
  constructor <;>
    simp [encodeWrite, writeCrc, writeField, Params.default, wordCRC, byteCRC, crcRounds, crcRound, reverseBytes]

/-- Settles O19: the fields of the word, the payload byte by byte, and the flag set whatever the operand's bit 7. -/
theorem encodeWriteLayout : Obligations.EncodeWriteLayout := by
  refine ⟨fun s a r v hp hf => ?_, encodeWrite_default_examples⟩
  obtain ⟨hsync, haddr, hfield, hpay, hcrc⟩ := encodeWrite_fields s.params a r v
  obtain ⟨hflag, hnumber⟩ := flag_and_number hfield
  obtain ⟨hset, hkept, hor, hand⟩ := or_80_flagged r
  have hbyte : ∀ k < 4, (encodeWrite s.params a r v).extractLsb' (24 + 8 * k) 8 = payloadByte v (3 - k) :=
    fun _ => encodeWrite_payloadByte s.params a r v
  rw [writeField_force hf] at hflag hnumber
  refine ⟨encodeWrite s.params a r v, completePure_idle hp, hsync, haddr, hflag.trans hset, hnumber.trans hkept,
    hbyte 0 (by decide), hbyte 1 (by decide), hbyte 2 (by decide), hbyte 3 (by decide), ?_, encodeWrite_congr ?_,
    encodeWrite_congr ?_, encodeWrite_ne_sentinel64 a r v⟩
  · rw [hcrc, hpay, hfield, writeCrc]
  · rw [writeField_force hf, writeField_force hf, hor]
  · rw [writeField_force hf, writeField_force hf, hand]

/-- Settles O20: the fields of the word, and the flag clear whatever the operand's bit 7. -/
theorem encodeRequestLayout : Obligations.EncodeRequestLayout := by
  refine ⟨fun s a r hp hf => ?_, by decide, by decide, by decide⟩
  obtain ⟨hsync, haddr, hfield, hcrc⟩ := encodeRequest_fields s.params a r
  obtain ⟨hflag, hnumber⟩ := flag_and_number hfield
  obtain ⟨hclear, hkept, hor, hand⟩ := and_7F_unflagged r
  rw [requestField_force hf] at hflag hnumber
  refine ⟨encodeRequest s.params a r, completePure_idle hp, hsync, haddr, hflag.trans hclear, hnumber.trans hkept, ?_,
    encodeRequest_congr ?_, encodeRequest_congr ?_⟩
  · rw [hcrc, hfield, requestCrc]
  · rw [requestField_force hf, requestField_force hf, hor]
  · rw [requestField_force hf, requestField_force hf, hand]

/-! #### The decoder (R84 to R86) -/

theorem crcMatches_iff {p : Params} {raw : U64} : crcMatches p raw = true ↔
    raw.extractLsb' 56 8 = wordCRC p (raw.extractLsb' 24 32) (byteCRC p (raw.extractLsb' 16 8) p.rseed) :=
  beq_iff_eq

theorem decodeResponse_of_valid {p : Params} {raw : U64} (hones : raw ≠ sentinel64)
    (hcrc : crcMatches p raw = true) : decodeResponse p raw = (reverseBytes (responsePayload raw), .ok) :=
  (if_neg hones).trans (if_pos hcrc)

/-- Everything the decoder can answer: a timeout, a CRC mismatch, or the payload of a valid response. -/
theorem decodeResponse_cases (p : Params) (raw : U64) :
    (raw = sentinel64 ∧ decodeResponse p raw = (sentinel32, .replyTimeout)) ∨
    (raw ≠ sentinel64 ∧ crcMatches p raw ≠ true ∧ decodeResponse p raw = (sentinel32, .crcMismatch)) ∨
    (raw ≠ sentinel64 ∧ crcMatches p raw = true ∧
      decodeResponse p raw = (reverseBytes (responsePayload raw), .ok)) := by
  by_cases hones : raw = sentinel64
  · exact .inl ⟨hones, if_pos hones⟩
  · by_cases hcrc : crcMatches p raw = true
    · exact .inr (.inr ⟨hones, hcrc, decodeResponse_of_valid hones hcrc⟩)
    · exact .inr (.inl ⟨hones, hcrc, (if_neg hones).trans (if_neg hcrc)⟩)

/-- The operation's step, by the decoder's answer. -/
theorem exec_decodeResponse {s : State} {raw : U64} {v : U32} {st : Status} (hp : s.phase = .idle)
    (h : decodeResponse s.params raw = (v, st)) : exec (.decodeResponse raw) s = .next { s with
      completions := s.completions ++ [⟨.decodeResponse, .u32 v, st⟩] } := by
  obtain ⟨rfl, rfl⟩ := Prod.mk.inj h
  exact completePure_idle hp

/-- Settles O22: the three outcomes in turn; a match gives the payload bytes in mirrored order. -/
theorem decodeResponseOutcomes : Obligations.DecodeResponseOutcomes := by
  intro s raw hp
  rcases decodeResponse_cases s.params raw with ⟨hones, e⟩ | ⟨hones, hcrc, e⟩ | ⟨hones, hcrc, e⟩ <;>
    refine ⟨_, _, exec_decodeResponse hp e, ?_⟩
  · exact ⟨fun _ => ⟨rfl, rfl⟩, fun h => absurd hones h, fun h => absurd hones h⟩
  · exact ⟨fun h => absurd h hones, fun _ _ => ⟨rfl, rfl⟩, fun _ h => absurd (crcMatches_iff.mpr h.symm) hcrc⟩
  · have hbyte : ∀ k < 4, payloadByte (reverseBytes (responsePayload raw)) k =
        raw.extractLsb' (24 + 8 * (3 - k)) 8 := fun k hk => by
      rw [payloadByte_reverseBytes _ hk, payloadByte_responsePayload raw (by omega)]
    exact ⟨fun h => absurd h hones, fun _ h => absurd (crcMatches_iff.mp hcrc).symm h, fun _ _ =>
      ⟨rfl, hbyte 3 (by decide), hbyte 2 (by decide), hbyte 1 (by decide), hbyte 0 (by decide)⟩⟩

/-- Settles O24: of the three outcomes only a valid response is `OK`, and the other two give the sentinel. -/
theorem okExactlyOnValidResponses : Obligations.OkExactlyOnValidResponses := by
  intro p raw
  rw [← crcMatches_iff]
  rcases decodeResponse_cases p raw with ⟨hones, e⟩ | ⟨hones, hcrc, e⟩ | ⟨hones, hcrc, e⟩ <;> rw [e]
  · exact ⟨⟨nofun, fun ⟨hne, _⟩ => absurd hones hne⟩, nofun, fun _ => rfl⟩
  · exact ⟨⟨nofun, fun ⟨_, hok⟩ => absurd hok hcrc⟩, nofun, fun _ => rfl⟩
  · exact ⟨⟨fun _ => ⟨hones, hcrc⟩, fun _ => rfl⟩, fun _ => rfl, fun h => absurd rfl h⟩

/-- The test bench's reply has a matching CRC and carries the reversed value (R85). -/
theorem makeResponse_fields (p : Params) (b0 b1 rf : U8) (v : U32) :
    crcMatches p (makeResponse p b0 b1 rf v) = true ∧
    responsePayload (makeResponse p b0 b1 rf v) = reverseBytes v := by
  obtain ⟨-, -, hfield, hpay, hcrc⟩ := longWord_fields (responseCrc p rf (reverseBytes v)) (reverseBytes v) rf b1 b0
  rw [← makeResponse] at hfield hpay hcrc
  exact ⟨by rw [crcMatches_iff, hfield, hpay, hcrc, responseCrc], hpay⟩

/-- Settles O25: the decoder reverses the payload that the reply carries reversed. -/
theorem replyRoundTrip : Obligations.ReplyRoundTrip := by
  intro s b0 b1 rf v hp hones
  obtain ⟨hcrc, hpay⟩ := makeResponse_fields s.params b0 b1 rf v
  refine exec_decodeResponse hp ?_
  rw [decodeResponse_of_valid hones hcrc, hpay, reverseBytes_reverseBytes]

end Sys2Proof.Machine

/-! ### Acceptance, and the moves of PHASE

IDLE alone accepts (42_transport_driver.md R101), and every move of PHASE is one of the table of R100. -/

namespace Sys2Proof.Machine

/-- Bytes on the wire reach the receive buffer of an idle block, whether they are a datagram or noise. -/
theorem runFrame_wire (s : State) (dir : Direction) (bytes : List U8) :
    runFrame (.wire dir bytes) s = .next (receiveBytes bytes s) := by
  cases hd : decode s.params (.wire dir bytes) with
  | error why => exact runFrame_error hd
  | ok i =>
    obtain ⟨-, hwire, -⟩ := decodedIsEncoded
    have he : encode i = .wire dir bytes := hwire s.params dir bytes i hd
    rw [runFrame_ok hd]
    cases i with
    | writeDatagram | requestDatagram | responseDatagram => cases he; rfl
    | byteCRC | wordCRC | startSeed | reverseBytes | encodeWrite | encodeRequest | decodeResponse
    | write | request | awaitReply | read => cases he

/-- Settles O7: an idle block runs every operation to a next state, a BUSY one refuses it, and what arrives on the wire
is put into the receive buffer. -/
theorem acceptedOnlyInIdle : Obligations.AcceptedOnlyInIdle := by
  refine ⟨fun i op s _ hp => ?_, fun i op s ho hb => exec_busy ho hb, fun s hp hi => ?_, ?_⟩
  · obtain ⟨t, ht, -⟩ := exec_idle_next hp i
    exact ⟨t, ht⟩
  · simp [step, busy_eq_false.mpr hp, fetch, hi]
  · intro s dir bytes rest hp hi
    exact ⟨_, (step_fetch hp hi).trans (runFrame_wire _ dir bytes), hp, rfl, rfl, rfl, rfl, rfl, rfl⟩

/-- An instruction that starts idle has ended with its start. -/
theorem exec_of_started_idle {s : State} {i : Instr} (hp : s.phase = .idle) (h : (started s i).phase = .idle) :
    exec i s = .next (started s i) := by
  rw [exec_eq_runToIdle_started hp, runToIdle_idle h]

/-- Settles O28: without a channel the start of a listen is its end. -/
theorem absentChannelEndsTheListen : Obligations.AbsentChannelEndsTheListen := by
  rintro ⟨p, ph, g, e, ib, cs, ds⟩ a r hp
  obtain rfl : ph = .idle := hp
  exact ⟨exec_of_started_idle rfl rfl, exec_of_started_idle rfl rfl⟩

/-- A pure operation starts with its own completion, and that is all. -/
theorem started_pure {i : Instr} {op : Op} (s : State) (ho : opOf i = some op) (hc : op.code.getLsbD 3 = false) :
    ∃ c : Completion, c.op = op ∧ started s i = { s with completions := s.completions ++ [c] } := by
  cases i with
  | writeDatagram | requestDatagram | responseDatagram => cases ho
  | write | request | awaitReply | read => cases ho; cases hc
  | byteCRC | wordCRC | startSeed | reverseBytes | encodeWrite | encodeRequest | decodeResponse =>
    cases ho
    exact ⟨_, rfl, rfl⟩

/-- A transport operation without a channel starts with its completion, CHANNEL_ABSENT (R109, 60_exceptions.md R111). -/
theorem exec_absent {s : State} (a r : U8) (v : U32) (hp : s.phase = .idle) {i : Instr}
    (hi : i ∈ [Instr.write false a r v, .request false a r, .awaitReply false, .read false a r]) :
    ∃ (g : Regs) (c : Completion), some c.op = opOf i ∧ c.status = .channelAbsent ∧
      exec i s = .next { s with regs := g, completions := s.completions ++ [c] } := by
  obtain ⟨p, ph, g, e, ib, cs, ds⟩ := s
  obtain rfl : ph = .idle := hp
  simp only [List.mem_cons, List.not_mem_nil, or_false] at hi
  rcases hi with rfl | rfl | rfl | rfl <;>
    exact ⟨_, ⟨_, _, .channelAbsent⟩, rfl, rfl, exec_of_started_idle rfl rfl⟩

/-- The last byte of a datagram ends SENDING, under the operations that send. -/
theorem phaseMove_sendByte {s : State} (hp : s.phase = .sending) (hq : s.regs.point ≠ .first) (h : s.inv = true) :
    (sendByte s).phase = .sending ∨ PhaseMove s (sendByte s) := by
  obtain ⟨⟨-, hop⟩, ht, hi, -⟩ := (sendingInv_iff s).mp ((inv_sending_iff hp).mp h)
  have hact : s.regs.point = .act := by cases hpt : s.regs.point <;> simp_all
  rcases sendByte_cases s with ⟨-, e⟩ | ⟨hn, ho, e⟩ | ⟨hn, ho, e⟩ <;> rw [e]
  · exact .inl hp
  · simp [PhaseMove, hp, byteSent, ho, hact]
    omega
  · have hsend : s.regs.op = .write ∨ s.regs.op = .request := by tauto
    simp [PhaseMove, hp, byteSent, hsend, hact]
    omega

/-- The eighth byte ends COMPLETE with a completion. -/
theorem phaseMove_takeByte {s : State} (b : U8) (hp : s.phase = .complete) (hi : s.regs.rxi < 8) :
    (takeByte b (readDone b s)).phase = .complete ∨ PhaseMove s (takeByte b (readDone b s)) := by
  rcases takeByte_cases b (readDone b s) with ⟨-, e⟩ | ⟨h8, e⟩
  · rw [e]
    exact .inl hp
  · have h8 : 8 ≤ s.regs.rxi + 1 := h8
    obtain ⟨v, st, e'⟩ := finishListening_spec .ok (byteTaken b (readDone b s))
    rw [e, e']
    refine .inr ?_
    simp [PhaseMove, hp, byteTaken, readDone]
    omega

/-- The end of a timeout presents REPLY_TIMEOUT under either listening operation (R94, R95). -/
theorem expire_replyTimeout (s : State) : ∃ v, expire s =
    complete v .replyTimeout { s with regs := { s.regs with raw := sentinel64 } } := by
  unfold expire finishListening
  split
  · exact ⟨_, rfl⟩
  · exact ⟨_, rfl⟩

/-- A call that returned leaves PHASE, or moves it as the table says. -/
theorem Returned.phaseMove {s t : State} (hr : Returned s t) (h : s.inv = true) :
    t.phase = s.phase ∨ PhaseMove s t := by
  cases hr with
  | sendFlush | listenFlush | drainByte | startPoll | pollAgain => exact .inl rfl
  | sendByte hp hq => exact hp ▸ phaseMove_sendByte hp hq h
  | drainTest hp hq =>
    rcases drainTest_cases s with ⟨hrx, e⟩ | ⟨-, e⟩ <;> rw [e]
    · exact .inr (by simp [PhaseMove, hp, hq, hrx])
    · exact .inl rfl
  | pollTest hp hq =>
    rcases pollTest_cases s with ⟨h8, e⟩ | ⟨h8, hc, e⟩ | ⟨-, -, e⟩ <;> rw [e]
    · exact .inr (by simp [PhaseMove, hp, hq, h8])
    · exact .inr (by simp [PhaseMove, hp, hq, hc, h8])
    · exact .inl rfl
  | takeByte b hp =>
    obtain ⟨-, hi, -⟩ := (inv_complete_iff hp).mp h
    exact hp ▸ phaseMove_takeByte b hp hi

/-- The move is judged by the block's registers and record, which the time of a call does not touch. -/
theorem phaseMove_elapse {s t : State} (h : PhaseMove (elapse s) t) : PhaseMove s t := h

theorem phaseMove_tick {s t : State} (h : s.inv = true) (hb : s.phase ≠ .idle) (ht : tick s = .next t) :
    t.phase = s.phase ∨ (t.phase = .idle ∧ s.env.slot.ending = .reset ∧ t.completions = s.completions) ∨
      PhaseMove s t := by
  rcases tick_cases hb ht with ⟨hp, rfl⟩ | ⟨-, ⟨-, rfl⟩ | ⟨he, rfl⟩ | ⟨-, hr⟩⟩
  · obtain ⟨v, e⟩ := expire_replyTimeout s
    rw [e]
    exact .inr (.inr (by simp [PhaseMove, hp]))
  · exact .inl rfl
  · exact .inr (.inl ⟨rfl, he, rfl⟩)
  · exact (hr.phaseMove (inv_elapse h)).imp_right fun hm => .inr (phaseMove_elapse hm)

/-- Settles O42: an operation is accepted by its start, and a tick of a BUSY block moves PHASE by a reset or by the
table. -/
theorem phaseMovesAsTabled : Obligations.PhaseMovesAsTabled := by
  refine ⟨fun i op s ho hc hp => ?_, fun s a r v hp i hi => exec_absent a r v hp hi,
    fun s a r v hp => exec_eq_runToIdle_started hp _, fun s a r hp => exec_eq_runToIdle_started hp _,
    fun s a r hp => exec_eq_runToIdle_started hp _, fun s hp => exec_eq_runToIdle_started hp _,
    fun s hp => by simp [tick, hp], fun s t => phaseMove_tick⟩
  obtain ⟨c, hop, e⟩ := started_pure s ho hc
  exact ⟨c, hop, (exec_of_started_idle hp (by rw [e]; exact hp)).trans (by rw [e])⟩

end Sys2Proof.Machine

/-! ### The sending operations

`write` and `request` are their start, the calls of one datagram and a completion (42_transport_driver.md R91 to
R93). -/

namespace Sys2Proof.Machine

/-- Sending hands over the bytes of its datagram, in wire order. -/
theorem writesOf_sendCalls (n : Nat) (w : U64) : writesOf (sendCalls n w) = wireBytes n w := by
  have hmap : ∀ bs : List U8, writesOf (bs.map Call.write) = bs := fun bs => by
    induction bs with
    | nil => rfl
    | cons b bs ih => exact congrArg (b :: ·) ih
  exact hmap _

/-- What is sent stays sent while more bytes are handed over. -/
theorem txSent_prefix_bytesSent (m : Nat) (s : State) : s.env.txSent <+: (bytesSent m s).env.txSent := by
  induction m generalizing s with
  | zero => exact List.prefix_rfl
  | succ m ih => exact (List.prefix_append s.env.txSent _).trans (ih (byteSent (elapse s)))

/-- The flush before a datagram has sent all that was pending (20_memory.md R41). -/
theorem stream_prefix_datagramSent (n : Nat) (s : State) :
    s.env.txSent ++ s.env.txPending <+: (datagramSent n s).env.txSent := by
  have hflush : (setPoint .act (chanFlush (elapse s))).env.txSent = s.env.txSent ++ s.env.txPending :=
    Env.elapse_stream s.env
  rw [← hflush]
  exact txSent_prefix_bytesSent n _

/-- What an operation that only sends the datagram `w` of `n` bytes leaves, but for the registers: its calls and its
completion, both streams, and nothing else. -/
def Sent (op : Op) (n : Nat) (w : U64) (s t : State) : Prop :=
  t.phase = .idle ∧ t.calls = s.calls ++ sendCalls n w ∧ t.completions = s.completions ++ [⟨op, .none, .ok⟩] ∧
  t.env.txSent ++ t.env.txPending = s.env.txSent ++ s.env.txPending ++ wireBytes n w ∧
  s.env.txSent ++ s.env.txPending <+: t.env.txSent ∧ t.env.rx = s.env.rx ++ arrivalsOf (n + 1) s.env ∧
  t.env.script = s.env.script.drop (n + 1) ∧ t.env.rest = s.env.rest ∧ t.params = s.params ∧ t.inbox = s.inbox

/-- A block that enters SENDING with an operation that does not listen sends its datagram and completes. -/
theorem sends_of_enterSending {s : State} {w : U64} {m : Nat} (ho : s.regs.op ≠ .read)
    (ha : (slotsOf (m + 2) s.env).all Slot.answers = true) :
    ∃ t, runOperation (m + 2) (enterSending w (m + 1) s) = .next t ∧ Sent s.regs.op (m + 1) w s t ∧
      t.regs = { s.regs with dgram := w, txn := m + 1, txi := m + 1, point := .act } := by
  have hrun := runOperation_datagramSent (s := enterSending w (m + 1) s) rfl rfl rfl rfl ha
  have hacc := datagramSent_accounted (n := m + 1) (s := enterSending w (m + 1) s) rfl ha
  obtain ⟨hregs, -, hparams, hinbox, hcompletions⟩ := datagramSent_frame (m + 1) (enterSending w (m + 1) s)
  have hprefix := stream_prefix_datagramSent (m + 1) (enterSending w (m + 1) s)
  generalize datagramSent (m + 1) (enterSending w (m + 1) s) = u at *
  have hop : u.regs.op = s.regs.op := by rw [hregs]; rfl
  have hrx : u.env.rx = s.env.rx ++ arrivalsOf (m + 2) s.env := by simpa [readsOf_sendCalls] using hacc.taken
  refine ⟨complete .none .ok u, hrun.trans (congrArg _ (if_neg (hop.trans_ne ho))), ?_, ?_⟩
  · exact ⟨rfl, hacc.calls, by simp [hop, hcompletions], by simpa [writesOf_sendCalls] using hacc.sent, hprefix, hrx,
      hacc.script, hacc.rest, hparams, hinbox⟩
  · simpa using hregs

/-- Settles O29: the flush and the eight bytes run in nine ticks, and each call is accounted for. -/
theorem writeSendsItsDatagram : Obligations.WriteSendsItsDatagram := by
  constructor
  · rintro ⟨p, ph, g, e, ib, cs, ds⟩ a r v hp
    obtain rfl : ph = .idle := hp
    exact exec_of_started_idle rfl rfl
  · intro s a r v hp ha
    obtain ⟨t, hrun, ⟨hidle, hcalls, hcompletions, hsent, hprefix, hrx, hscript, hrest, hparams, hinbox⟩, hregs⟩ :=
      sends_of_enterSending (s := captureWrite true a r v s) (w := encodeWrite s.params a r v) (m := 7) nofun ha
    have hexec : exec (.write true a r v) s = .next t :=
      exec_of_run hp hrun hidle (by unfold callBound; omega)
    refine ⟨t, hexec, hidle, hcalls, hcompletions, hsent, hprefix, hrx, hscript, hrest, hparams, hinbox, ?_⟩
    rw [hregs]
    exact ⟨rfl, rfl, rfl, rfl, rfl, rfl⟩

/-- Settles O30: the flush and the four bytes run in five ticks, and each call is accounted for. -/
theorem requestSendsItsDatagram : Obligations.RequestSendsItsDatagram := by
  constructor
  · rintro ⟨p, ph, g, e, ib, cs, ds⟩ a r hp
    obtain rfl : ph = .idle := hp
    exact exec_of_started_idle rfl rfl
  · intro s a r hp ha
    obtain ⟨t, hrun, ⟨hidle, hcalls, hcompletions, hsent, hprefix, hrx, hscript, hrest, hparams, hinbox⟩, hregs⟩ :=
      sends_of_enterSending (s := captureRequest true a r s) (w := (encodeRequest s.params a r).setWidth 64) (m := 3)
        nofun ha
    have hexec : exec (.request true a r) s = .next t :=
      exec_of_run hp hrun hidle (by unfold callBound; omega)
    refine ⟨t, hexec, hidle, hcalls, hcompletions, hsent, hprefix, hrx, hscript, hrest, hparams, hinbox, ?_⟩
    rw [hregs]
    exact ⟨rfl, rfl, rfl, rfl, rfl, rfl⟩

end Sys2Proof.Machine

/-! ### The listen, call by call

A listen as a run of known calls: the flush and the drain, the turnaround delay, the polls, and the eight bytes of a
reply or the timeout (42_transport_driver.md R94 to R99, R103 to R106). -/

namespace Sys2Proof.Machine

/-! #### The calls of a listen, by kind -/

/-- Polling takes nothing, hands over nothing, and tests once a round. -/
@[simp] theorem readsOf_pollCalls (us : Nat) (polls : List Nat) : readsOf (pollCalls us polls) = [] := by
  induction polls with
  | nil => rfl
  | cons n polls ih => exact ih

@[simp] theorem writesOf_pollCalls (us : Nat) (polls : List Nat) : writesOf (pollCalls us polls) = [] := by
  induction polls with
  | nil => rfl
  | cons n polls ih => exact ih

@[simp] theorem availsOf_pollCalls (us : Nat) (polls : List Nat) : availsOf (pollCalls us polls) = polls.length := by
  induction polls with
  | nil => rfl
  | cons n polls ih => exact congrArg (· + 1) ih

/-- Collecting takes its bytes, and neither hands over nor tests. -/
@[simp] theorem readsOf_reads (bs : List U8) : readsOf (bs.map Call.read) = bs := by
  induction bs with
  | nil => rfl
  | cons b bs ih => exact congrArg (b :: ·) ih

@[simp] theorem writesOf_reads (bs : List U8) : writesOf (bs.map Call.read) = [] := by
  induction bs with
  | nil => rfl
  | cons b bs ih => exact ih

@[simp] theorem availsOf_reads (bs : List U8) : availsOf (bs.map Call.read) = 0 := by
  induction bs with
  | nil => rfl
  | cons b bs ih => exact ih

/-- Draining hands nothing over. -/
@[simp] theorem writesOf_drainCalls (stale : List (Nat × U8)) : writesOf (drainCalls stale) = [] := by
  induction stale with
  | nil => rfl
  | cons x stale ih => exact ih

/-- Draining a buffer to which nothing is added takes what is in it. -/
@[simp] theorem readsOf_drainCalls_staleOf (w : List U8) : readsOf (drainCalls (staleOf w)) = w := by
  induction w with
  | nil => rfl
  | cons b w ih => exact congrArg (b :: ·) ih

@[simp] theorem staleOf_length (w : List U8) : (staleOf w).length = w.length := by
  induction w with
  | nil => rfl
  | cons b w ih => exact congrArg (· + 1) ih

/-! #### The channel after some calls -/

/-- Coming calls that return include the first of them. -/
theorem slotsAnswer_of_le {m n : Nat} {e : Env} (h : m ≤ n) (ha : (slotsOf n e).all Slot.answers = true) :
    (slotsOf m e).all Slot.answers = true := by
  obtain ⟨k, rfl⟩ := Nat.exists_eq_add_of_le h
  rw [slotsOf_add, List.all_append, Bool.and_eq_true] at ha
  exact ha.1

section
variable {l : List Call} {n : Nat} {s t : State}

theorem slot_answers (ha : (slotsOf (n + 1) s.env).all Slot.answers = true) : s.env.slot.answers = true := by
  rw [slotsOf_succ, List.all_cons, Bool.and_eq_true] at ha
  exact ha.1

theorem Accounted.slotsAnswer (h : Accounted l n s t) (m : Nat)
    (ha : (slotsOf (n + m) s.env).all Slot.answers = true) : (slotsOf m t.env).all Slot.answers = true := by
  rw [slotsOf_add, List.all_append, Bool.and_eq_true] at ha
  rw [slotsOf_congr m (e' := { s.env with script := s.env.script.drop n }) h.script h.rest]
  exact ha.2

/-- What arrives later arrives after what has arrived. -/
theorem Accounted.arrivals (h : Accounted l n s t) (m : Nat) :
    arrivalsOf (n + m) s.env = arrivalsOf n s.env ++ arrivalsOf m t.env := by
  rw [arrivalsOf_add, arrivalsOf_congr m (e' := { s.env with script := s.env.script.drop n }) h.script h.rest]

/-- Of all that is buffered or comes within the next calls, what has been read is gone. -/
theorem Accounted.buffered (h : Accounted l n s t) (m : Nat) :
    (readsOf l).length + (t.env.rx.length + (arrivalsOf m t.env).length) =
      s.env.rx.length + (arrivalsOf (n + m) s.env).length := by
  have htaken := congrArg List.length h.taken
  rw [List.length_append, List.length_append] at htaken
  rw [h.arrivals, List.length_append]
  omega

end

theorem arrivalsOf_one (e : Env) : arrivalsOf 1 e = e.slot.arrivals := by simp [arrivalsOf_succ]

/-! #### What a listen changes -/

/-- `t` is what comes of the listen in `s` after the calls `l` in `n` slots of the script: CNT, RAW, RXI and the place
may have been written, no other register; nothing is handed over for transmission, and nothing is presented. -/
structure Listened (l : List Call) (n : Nat) (s t : State) : Prop where
  accounted : Accounted l n s t
  regs : t.regs = { s.regs with cnt := t.regs.cnt, raw := t.regs.raw, rxi := t.regs.rxi, point := t.regs.point }
  params : t.params = s.params
  inbox : t.inbox = s.inbox
  completions : t.completions = s.completions
  flushed : s.env.txPending = [] → t.env.txPending = []

theorem Listened.trans {l l' : List Call} {m n : Nat} {s t u : State} (h : Listened l m s t)
    (h' : Listened l' n t u) : Listened (l ++ l') (m + n) s u where
  accounted := h.accounted.trans h'.accounted
  regs := by rw [h'.regs, h.regs]
  params := h'.params.trans h.params
  inbox := h'.inbox.trans h.inbox
  completions := h'.completions.trans h.completions
  flushed := h'.flushed ∘ h.flushed

/-- `n` ticks, a call each, bring the listen from `s` to `t`. -/
def Goes (l : List Call) (n : Nat) (s t : State) : Prop := runOperation n s = .next t ∧ Listened l n s t

theorem Goes.trans {l l' : List Call} {m n : Nat} {s t u : State} (h : Goes l m s t) (h' : Goes l' n t u) :
    Goes (l ++ l') (m + n) s u :=
  ⟨(runOperation_add h.1).trans h'.1, h.2.trans h'.2⟩

/-- `k` ticks, `n` of them a call, bring the listen from `s` to its end with status `st`, at the state `u`. -/
def EndsListening (st : Status) (l : List Call) (k n : Nat) (s u : State) : Prop :=
  runOperation k s = .next (finishListening st u) ∧ Listened l n s u

theorem Goes.ends {st : Status} {l l' : List Call} {k m n : Nat} {s t u : State} (h : Goes l m s t)
    (h' : EndsListening st l' k n t u) : EndsListening st (l ++ l') (m + k) (m + n) s u :=
  ⟨(runOperation_add h.1).trans h'.1, h.2.trans h'.2⟩

/-- What comes of a returned call is what the block does at its place. -/
theorem Returned.afterCall {s t : State} (h : Returned s t) : afterCall s = t := by
  cases h with
  | sendFlush hp hq | startPoll hp hq | pollTest hp hq | pollAgain hp hq | listenFlush hp hq | drainTest hp hq =>
    simp [Machine.afterCall, hp, hq]
  | sendByte hp hq => cases hpt : s.regs.point <;> simp_all [Machine.afterCall]
  | drainByte b hp hq hb => simp [Machine.afterCall, hp, hq, List.headD_eq_head?_getD, hb]
  | takeByte b hp hb => simp [Machine.afterCall, hp, List.headD_eq_head?_getD, hb]

/-- A tick whose call returns does what follows the call. -/
theorem tick_of_returned {s t : State} (ha : s.env.slot.answers = true) (hr : reading s → s.env.rx ≠ [])
    (hb : s.phase ≠ .idle) (ht : s.phase ≠ .timedOut) (h : Returned (elapse s) t) : tick s = .next t := by
  rw [tick_eq_call hb ht hr, call_returns (by simpa [Slot.answers] using ha), h.afterCall]

/-- A returned call of a listen that goes on writes CNT, RAW, RXI and the place, and hands nothing over. -/
theorem Returned.listen_frame {s t : State} (h : Returned s t) (hs : s.phase ≠ .sending) (ht : t.phase ≠ .idle) :
    t.regs = { s.regs with cnt := t.regs.cnt, raw := t.regs.raw, rxi := t.regs.rxi, point := t.regs.point } ∧
    t.completions = s.completions ∧ (s.env.txPending = [] → t.env.txPending = []) := by
  cases h with
  | sendFlush hp | sendByte hp => exact absurd hp hs
  | listenFlush => exact ⟨rfl, rfl, fun _ => rfl⟩
  | drainByte | startPoll | pollAgain => exact ⟨rfl, rfl, id⟩
  | drainTest => rcases drainTest_cases s with ⟨-, e⟩ | ⟨-, e⟩ <;> rw [e] <;> exact ⟨rfl, rfl, id⟩
  | pollTest => rcases pollTest_cases s with ⟨-, e⟩ | ⟨-, -, e⟩ | ⟨-, -, e⟩ <;> rw [e] <;> exact ⟨rfl, rfl, id⟩
  | takeByte b =>
    rcases takeByte_cases b (readDone b s) with ⟨-, e⟩ | ⟨-, e⟩
    · rw [e]
      exact ⟨rfl, rfl, id⟩
    · obtain ⟨v, st, e'⟩ := finishListening_spec .ok (byteTaken b (readDone b s))
      exact absurd (by rw [e, e']; rfl) ht

/-- A tick of a listen that goes on makes one call. -/
theorem Goes.of_returned {c : Call} {s t : State} (ha : s.env.slot.answers = true)
    (hr : reading s → s.env.rx ≠ []) (hb : s.phase ≠ .idle ∧ s.phase ≠ .timedOut ∧ s.phase ≠ .sending)
    (h : Returned (elapse s) t) (ht : t.phase ≠ .idle) (hc : t.calls = s.calls ++ [c]) : Goes [c] 1 s t := by
  obtain ⟨hbusy, hto, hsend⟩ := hb
  obtain ⟨hregs, hcompletions, hflushed⟩ := h.listen_frame hsend ht
  obtain ⟨hscript, hrest, hinbox, c', hc', heffect⟩ := h.callEffect
  obtain rfl : c' = c := by simpa using hc'.symm.trans hc
  exact ⟨(runOperation_next hbusy (tick_of_returned ha hr hbusy hto h)).trans rfl,
    .of_call ha hc heffect hscript hrest, hregs, h.params_eq, hinbox, hcompletions,
    fun hp => hflushed (by simp [hp])⟩

/-! #### The drain (R99, R103) -/

section
variable {s : State}

/-- Outside a `ChanRead`, a tick asks nothing of the buffer. -/
theorem rx_of_not_reading (hp : s.phase ≠ .complete) (hq : s.regs.point ≠ .act) : reading s → s.env.rx ≠ [] := by
  rintro (h | ⟨-, h⟩)
  · exact absurd h hp
  · exact absurd h hq

theorem goes_listenFlush (hp : s.phase = .draining) (hq : s.regs.point = .first) (ha : s.env.slot.answers = true) :
    ∃ t, Goes [.flush] 1 s t ∧ t.phase = .draining ∧ t.regs.point = .test ∧ t.env.txPending = [] :=
  ⟨_, .of_returned ha (rx_of_not_reading (by simp [hp]) (by simp [hq])) (by simp [hp]) (.listenFlush hp hq)
    (by simp [hp]) rfl, hp, rfl, rfl⟩

/-- The drain's last test, and the block waits. -/
theorem goes_drainDone (hp : s.phase = .draining) (hq : s.regs.point = .test) (ha : s.env.slot.answers = true)
    (hrx : s.env.rx ++ s.env.slot.arrivals = []) :
    ∃ t, Goes [.avail 0] 1 s t ∧ t.phase = .waiting ∧ t.regs.point = .first := by
  have he : drainTest (elapse s) = enterWaiting (chanAvail (elapse s)) := by
    rcases drainTest_cases (elapse s) with ⟨-, e⟩ | ⟨hne, -⟩
    · exact e
    · exact absurd hrx hne
  have h : Returned (elapse s) _ := .drainTest hp hq
  rw [he] at h
  exact ⟨_, .of_returned ha (rx_of_not_reading (by simp [hp]) (by simp [hq])) (by simp [hp]) h nofun
    (by simp [hrx]), rfl, rfl⟩

/-- One round of the drain: a test that sees bytes, and the oldest of them discarded. -/
theorem goes_drainRound (hp : s.phase = .draining) (hq : s.regs.point = .test)
    (ha : (slotsOf 2 s.env).all Slot.answers = true) (hrx : s.env.rx ++ s.env.slot.arrivals ≠ []) :
    ∃ b t, Goes [.avail (s.env.rx ++ s.env.slot.arrivals).length, .read b] 2 s t ∧ t.phase = .draining ∧
      t.regs.point = .test := by
  have he : drainTest (elapse s) = setPoint .act (chanAvail (elapse s)) := by
    rcases drainTest_cases (elapse s) with ⟨hnil, -⟩ | ⟨-, e⟩
    · exact absurd hnil hrx
    · exact e
  have h : Returned (elapse s) _ := .drainTest hp hq
  rw [he] at h
  have htest : Goes [.avail (s.env.rx ++ s.env.slot.arrivals).length] 1 s (setPoint .act (chanAvail (elapse s))) :=
    .of_returned (slot_answers ha) (rx_of_not_reading (by simp [hp]) (by simp [hq])) (by simp [hp]) h (by simp [hp]) rfl
  have ha' := htest.2.accounted.slotsAnswer 1 ha
  obtain ⟨b, w, hb⟩ := List.exists_cons_of_ne_nil hrx
  have hread := Goes.of_returned (c := .read b) (slot_answers ha') (fun _ => hrx) (by simp [hp])
    (.drainByte b hp rfl (by simp [hb])) (by simp [readDone, hp]) rfl
  exact ⟨b, _, htest.trans hread, hp, rfl⟩

/-- The drain from `s` discards at most `k` bytes, those that were buffered if nothing arrives, and the block waits. -/
def DrainsWithin (k : Nat) (s : State) : Prop :=
  ∃ (stale : List (Nat × U8)) (t : State), Goes (drainCalls stale ++ [.avail 0]) (2 * stale.length + 1) s t ∧
    t.phase = .waiting ∧ t.regs.point = .first ∧ (∀ x ∈ stale, 0 < x.1) ∧ stale.length ≤ k ∧
    (arrivalsOf (2 * k + 1) s.env = [] → stale = staleOf s.env.rx)

theorem drainsWithin_of_empty (k : Nat) (hp : s.phase = .draining) (hq : s.regs.point = .test)
    (ha : s.env.slot.answers = true) (hrx : s.env.rx ++ s.env.slot.arrivals = []) : DrainsWithin k s := by
  obtain ⟨t, hgo, htp, htq⟩ := goes_drainDone hp hq ha hrx
  obtain ⟨hnil, -⟩ := List.append_eq_nil_iff.mp hrx
  exact ⟨[], t, hgo, htp, htq, nofun, Nat.zero_le k, fun _ => by rw [hnil]; rfl⟩

/-- One round before a drain. -/
theorem DrainsWithin.of_round {k : Nat} {b : U8} {u : State} (hrx : s.env.rx ++ s.env.slot.arrivals ≠ [])
    (hround : Goes [.avail (s.env.rx ++ s.env.slot.arrivals).length, .read b] 2 s u) (h : DrainsWithin k u) :
    DrainsWithin (k + 1) s := by
  obtain ⟨stale, t, hgo, htp, htq, hpos, hlen, hsilent⟩ := h
  refine ⟨((s.env.rx ++ s.env.slot.arrivals).length, b) :: stale, t, ?_, htp, htq, ?_, Nat.succ_le_succ hlen, ?_⟩
  · rw [List.length_cons, show 2 * (stale.length + 1) + 1 = 2 + (2 * stale.length + 1) by omega]
    exact hround.trans hgo
  · exact List.forall_mem_cons.mpr ⟨List.length_pos_of_ne_nil hrx, hpos⟩
  · intro hnone
    rw [show 2 * (k + 1) + 1 = 2 + (2 * k + 1) by omega, hround.2.accounted.arrivals, List.append_eq_nil_iff] at hnone
    obtain ⟨hnow, hlater⟩ := hnone
    have hbu : s.env.rx = b :: u.env.rx := by simpa [readsOf, hnow] using hround.2.accounted.taken.symm
    rw [arrivalsOf_succ, List.append_eq_nil_iff] at hnow
    rw [hsilent hlater, hnow.1, hbu]
    simp [staleOf]

/-- A drain that can take all that comes in `k` rounds ends. -/
theorem goes_drain {k : Nat} (hp : s.phase = .draining) (hq : s.regs.point = .test)
    (ha : (slotsOf (2 * k + 1) s.env).all Slot.answers = true)
    (hk : s.env.rx.length + (arrivalsOf (2 * k + 1) s.env).length ≤ k) : DrainsWithin k s := by
  induction k generalizing s with
  | zero =>
    rw [arrivalsOf_one] at hk
    exact drainsWithin_of_empty 0 hp hq (slot_answers ha) (List.eq_nil_of_length_eq_zero (by simpa using hk))
  | succ k ih =>
    by_cases hrx : s.env.rx ++ s.env.slot.arrivals = []
    · exact drainsWithin_of_empty (k + 1) hp hq (slot_answers ha) hrx
    · obtain ⟨b, u, hround, hup, huq⟩ := goes_drainRound hp hq (slotsAnswer_of_le (by omega) ha) hrx
      rw [show 2 * (k + 1) + 1 = 2 + (2 * k + 1) by omega] at ha hk
      have hbuf : 1 + (u.env.rx.length + (arrivalsOf (2 * k + 1) u.env).length) = _ :=
        hround.2.accounted.buffered (2 * k + 1)
      exact .of_round hrx hround (ih hup huq (hround.2.accounted.slotsAnswer _ ha) (by omega))

/-- The turnaround delay starts the poll with the whole budget (R96, R104). -/
theorem goes_startPoll (hp : s.phase = .waiting) (hq : s.regs.point = .first) (ha : s.env.slot.answers = true) :
    ∃ t, Goes [.delay s.params.echoDelayUs] 1 s t ∧ t.phase = .waiting ∧ t.regs.point = .test ∧
      t.regs.cnt = s.params.replyBudget :=
  ⟨_, .of_returned ha (rx_of_not_reading (by simp [hp]) (by simp [hq])) (by simp [hp]) (.startPoll hp hq)
    (by simp [startPoll, hp]) rfl, hp, rfl, rfl⟩

/-- The listen up to its first poll. -/
theorem goes_toPoll {k : Nat} (hp : s.phase = .draining) (hq : s.regs.point = .first)
    (ha : (slotsOf (2 * k + 3) s.env).all Slot.answers = true)
    (hk : s.env.rx.length + (arrivalsOf (2 * k + 2) s.env).length ≤ k) :
    ∃ stale t, Goes ([.flush] ++ drainCalls stale ++ [.avail 0, .delay s.params.echoDelayUs])
        (2 * stale.length + 3) s t ∧ t.phase = .waiting ∧ t.regs.point = .test ∧ t.regs.cnt = s.params.replyBudget ∧
      t.env.txPending = [] ∧ (∀ x ∈ stale, 0 < x.1) ∧ stale.length ≤ k ∧
      (arrivalsOf (2 * k + 2) s.env = [] → stale = staleOf s.env.rx) := by
  obtain ⟨u, hflush, hup, huq, hpending⟩ := goes_listenFlush hp hq (slot_answers ha)
  have hbuf := hflush.2.accounted.buffered (2 * k + 1)
  have harr := hflush.2.accounted.arrivals (2 * k + 1)
  have hua := hflush.2.accounted.slotsAnswer (2 * k + 2) (slotsAnswer_of_le (by omega) ha)
  rw [show 1 + (2 * k + 1) = 2 * k + 2 by omega] at hbuf harr
  obtain ⟨stale, v, hdrain, hvp, hvq, hpos, hlen, hsilent⟩ := goes_drain hup huq (slotsAnswer_of_le (by omega) hua)
    (k := k) (by simp [readsOf] at hbuf; omega)
  obtain ⟨t, hstart, htp, htq, hcnt⟩ := goes_startPoll hvp hvq
    (slot_answers (hdrain.2.accounted.slotsAnswer 1 (slotsAnswer_of_le (by omega) hua)))
  have hparams : v.params = s.params := hdrain.2.params.trans hflush.2.params
  rw [hparams] at hstart hcnt
  refine ⟨stale, t, ?_, htp, htq, hcnt, (hdrain.trans hstart).2.flushed hpending, hpos, hlen, fun hnone => ?_⟩
  · have hn : 2 * stale.length + 3 = 1 + (2 * stale.length + 1 + 1) := by omega
    have hcalls : [Call.flush] ++ drainCalls stale ++ [.avail 0, .delay s.params.echoDelayUs] =
      [.flush] ++ (drainCalls stale ++ [.avail 0] ++ [.delay s.params.echoDelayUs]) := by simp
    rw [hn, hcalls]
    exact hflush.trans (hdrain.trans hstart)
  · obtain ⟨hnow, hlater⟩ := List.append_eq_nil_iff.mp (harr.symm.trans hnone)
    have hrx : u.env.rx = s.env.rx := by simpa [readsOf, hnow] using hflush.2.accounted.taken
    rw [hsilent hlater, hrx]

end

end Sys2Proof.Machine

/-! ### The poll and the end of a listen -/

namespace Sys2Proof.Machine

/-- What the first `m` tests of a poll see, when nothing is taken: what was buffered and has arrived by then. -/
def pollCounts (m : Nat) (e : Env) : List Nat :=
  (List.range m).map fun i => e.rx.length + (arrivalsOf (2 * i + 1) e).length

@[simp] theorem pollCounts_length (m : Nat) (e : Env) : (pollCounts m e).length = m := by simp [pollCounts]

theorem pollCounts_succ (m : Nat) (e : Env) :
    pollCounts (m + 1) e = pollCounts m e ++ [e.rx.length + (arrivalsOf (2 * m + 1) e).length] := by
  simp [pollCounts, List.range_succ]

theorem forall_mem_pollCounts {m : Nat} {e : Env} {P : Nat → Prop} :
    (∀ n ∈ pollCounts m e, P n) ↔ ∀ i < m, P (e.rx.length + (arrivalsOf (2 * i + 1) e).length) := by
  simp [pollCounts]

theorem pollCalls_append (us : Nat) (l m : List Nat) : pollCalls us (l ++ m) = pollCalls us l ++ pollCalls us m := by
  simp [pollCalls]

section
variable {s : State}

/-- What a test of the channel sees: what is buffered when it is made, and what arrives meanwhile. -/
theorem availCount_elapse (s : State) :
    (elapse s).env.rx.length = s.env.rx.length + (arrivalsOf 1 s.env).length := by
  simp [arrivalsOf_one]

/-- A test of the poll, whatever comes of it. -/
theorem goes_pollTest {t : State} (hp : s.phase = .waiting) (hq : s.regs.point = .test)
    (ha : s.env.slot.answers = true) (he : pollTest (elapse s) = t) (ht : t.phase ≠ .idle)
    (hc : t.calls = s.calls ++ [.avail (elapse s).env.rx.length]) :
    Goes [.avail (s.env.rx.length + (arrivalsOf 1 s.env).length)] 1 s t := by
  rw [← availCount_elapse]
  exact .of_returned ha (rx_of_not_reading (by simp [hp]) (by simp [hq])) (by simp [hp]) (he ▸ .pollTest hp hq) ht hc

/-- A poll delay takes one from the budget left (R97, 60_exceptions.md R119). -/
theorem goes_pollAgain (hp : s.phase = .waiting) (hq : s.regs.point = .act) (ha : s.env.slot.answers = true) :
    ∃ t, Goes [.delay s.params.pollDelayUs] 1 s t ∧ t.phase = .waiting ∧ t.regs.point = .test ∧
      t.regs.cnt = s.regs.cnt - 1 :=
  have hr : reading s → s.env.rx ≠ [] := by simp [reading, hp]
  ⟨_, .of_returned ha hr (by simp [hp]) (.pollAgain hp hq) (by simp [pollAgain, hp]) rfl, hp, rfl, rfl⟩

/-- One round of the poll: a test that sees too few bytes, and a delay. -/
theorem goes_pollRound (hp : s.phase = .waiting) (hq : s.regs.point = .test)
    (ha : (slotsOf 2 s.env).all Slot.answers = true) (hc : s.regs.cnt ≠ 0)
    (hfew : s.env.rx.length + (arrivalsOf 1 s.env).length < 8) :
    ∃ t, Goes [.avail (s.env.rx.length + (arrivalsOf 1 s.env).length), .delay s.params.pollDelayUs] 2 s t ∧
      t.phase = .waiting ∧ t.regs.point = .test ∧ t.regs.cnt = s.regs.cnt - 1 := by
  rw [← availCount_elapse] at hfew
  rcases pollTest_cases (elapse s) with ⟨h8, -⟩ | ⟨-, h0, -⟩ | ⟨-, -, e⟩
  · omega
  · exact absurd h0 hc
  · have htest := goes_pollTest hp hq (slot_answers ha) e (by simp [hp]) rfl
    obtain ⟨t, hdelay, ht⟩ := goes_pollAgain (s := setPoint .act (chanAvail (elapse s))) hp rfl
      (slot_answers (htest.2.accounted.slotsAnswer 1 ha))
    exact ⟨t, htest.trans hdelay, ht⟩

/-- The rounds of a poll whose tests see too few bytes (R97). -/
theorem goes_poll {m : Nat} (hp : s.phase = .waiting) (hq : s.regs.point = .test) (hm : m ≤ s.regs.cnt)
    (ha : (slotsOf (2 * m) s.env).all Slot.answers = true) (hfew : ∀ n ∈ pollCounts m s.env, n < 8) :
    ∃ t, Goes (pollCalls s.params.pollDelayUs (pollCounts m s.env)) (2 * m) s t ∧ t.phase = .waiting ∧
      t.regs.point = .test ∧ t.regs.cnt = s.regs.cnt - m := by
  induction m with
  | zero => exact ⟨s, ⟨rfl, .of_unchanged rfl rfl, rfl, rfl, rfl, rfl, id⟩, hp, hq, rfl⟩
  | succ m ih =>
    rw [pollCounts_succ] at hfew ⊢
    obtain ⟨hbefore, hlast⟩ := List.forall_mem_append.mp hfew
    obtain ⟨u, hrounds, hup, huq, hcnt⟩ := ih (by omega) (slotsAnswer_of_le (by omega) ha) hbefore
    have hseen : u.env.rx.length + (arrivalsOf 1 u.env).length =
        s.env.rx.length + (arrivalsOf (2 * m + 1) s.env).length := by
      simpa using hrounds.2.accounted.buffered 1
    obtain ⟨t, hround, htp, htq, htc⟩ := goes_pollRound hup huq (hrounds.2.accounted.slotsAnswer 2 ha) (by omega)
      (hseen.trans_lt (hlast _ (List.mem_singleton_self _)))
    rw [hseen, hrounds.2.params] at hround
    rw [pollCalls_append]
    exact ⟨t, hrounds.trans hround, htp, htq, by omega⟩

/-! #### The reply (R98) -/

/-- The oldest byte is taken into RAW; what the block does next depends on RXI alone. -/
theorem takes_byte {b : U8} {r : List U8} (hp : s.phase = .complete) (ha : s.env.slot.answers = true)
    (hrx : s.env.rx = b :: r) : tick s = .next (takeByte b (readDone b (elapse s))) ∧
      Listened [.read b] 1 s (byteTaken b (readDone b (elapse s))) := by
  have hread : CallEffect (.read b) [] (elapse s) (byteTaken b (readDone b (elapse s))) := by
    simp [CallEffect, byteTaken, readDone, hrx]
  exact ⟨tick_of_returned ha (by simp [hrx]) (by simp [hp]) (by simp [hp]) (.takeByte b hp (by simp [hrx])),
    .of_call ha rfl hread rfl rfl, rfl, rfl, rfl, rfl, fun h => by simp [byteTaken, readDone, h]⟩

/-- The bytes missing in RAW are taken, and the listen ends. -/
theorem endsListening_collect {n : Nat} {w : List U8} (hp : s.phase = .complete) (hraw : s.regs.raw = assemble w)
    (hw : w.length = s.regs.rxi) (hn : s.regs.rxi + (n + 1) = 8) (hrx : n + 1 ≤ s.env.rx.length)
    (ha : (slotsOf (n + 1) s.env).all Slot.answers = true) :
    ∃ bs u, EndsListening .ok (bs.map Call.read) (n + 1) (n + 1) s u ∧ bs.length = n + 1 ∧
      u.regs.raw = assemble (w ++ bs) := by
  induction n generalizing s w with
  | zero =>
    obtain ⟨b, r, hb⟩ := List.exists_cons_of_length_pos hrx
    obtain ⟨htick, hone⟩ := takes_byte hp (slot_answers ha) hb
    rcases takeByte_cases b (readDone b (elapse s)) with ⟨hi, -⟩ | ⟨-, e⟩
    · exact absurd (show s.regs.rxi + 1 < 8 from hi) (by omega)
    · exact ⟨[b], _, ⟨(runOperation_next (by simp [hp]) htick).trans (congrArg _ e), hone⟩, rfl, by
        rw [← setByte_assemble, ← hraw, hw]; rfl⟩
  | succ n ih =>
    obtain ⟨b, r, hb⟩ := List.exists_cons_of_length_pos (Nat.zero_lt_of_lt hrx)
    obtain ⟨htick, hone⟩ := takes_byte hp (slot_answers ha) hb
    rcases takeByte_cases b (readDone b (elapse s)) with ⟨-, e⟩ | ⟨hi, -⟩
    · have hgo : Goes [.read b] 1 s (byteTaken b (readDone b (elapse s))) :=
        ⟨(runOperation_next (by simp [hp]) htick).trans (congrArg _ e), hone⟩
      have hleft : n + 1 ≤ (byteTaken b (readDone b (elapse s))).env.rx.length := by
        simp [byteTaken, readDone, hb] at hrx ⊢
        omega
      obtain ⟨bs, u, hends, hlen, hu⟩ := ih (s := byteTaken b (readDone b (elapse s))) (w := w ++ [b]) hp
        (by rw [← setByte_assemble, ← hraw, hw]; rfl) (by rw [List.length_append, hw]; rfl)
        ((Nat.add_right_comm ..).trans hn) hleft
        (hone.accounted.slotsAnswer (n + 1) (by rwa [Nat.add_comm 1]))
      refine ⟨b :: bs, u, ?_, congrArg (· + 1) hlen, by simpa using hu⟩
      rw [Nat.add_comm (n + 1)]
      exact hgo.ends hends
    · exact absurd (show 8 ≤ s.regs.rxi + 1 from hi) (by omega)

/-- A test that sees 8 bytes or more is followed by the eight reads, and the listen ends with RAW the bytes read. -/
theorem endsListening_reply (hp : s.phase = .waiting) (hq : s.regs.point = .test)
    (ha : (slotsOf 9 s.env).all Slot.answers = true) (h8 : 8 ≤ s.env.rx.length + (arrivalsOf 1 s.env).length) :
    ∃ reply u, EndsListening .ok ([.avail (s.env.rx.length + (arrivalsOf 1 s.env).length)] ++ reply.map Call.read) 9 9 s
      u ∧ reply.length = 8 ∧ u.regs.raw = assemble reply := by
  have h8' := h8
  rw [← availCount_elapse] at h8'
  rcases pollTest_cases (elapse s) with ⟨-, e⟩ | ⟨hlt, -⟩ | ⟨hlt, -⟩
  · have htest := goes_pollTest hp hq (slot_answers ha) e nofun rfl
    obtain ⟨reply, u, hends, hlen, hraw⟩ := endsListening_collect (s := enterComplete (chanAvail (elapse s)))
      (n := 7) (w := []) rfl rfl rfl rfl h8' (htest.2.accounted.slotsAnswer 8 ha)
    exact ⟨reply, u, htest.ends hends, hlen, hraw⟩
  · omega
  · omega

/-- A test that sees too few bytes with the budget spent ends the listen as a timeout (R94, R97). -/
theorem endsListening_timeout (hp : s.phase = .waiting) (hq : s.regs.point = .test) (ha : s.env.slot.answers = true)
    (hc : s.regs.cnt = 0) (hfew : s.env.rx.length + (arrivalsOf 1 s.env).length < 8) :
    ∃ u, EndsListening .replyTimeout [.avail (s.env.rx.length + (arrivalsOf 1 s.env).length)] 2 1 s u ∧
      u.regs.cnt = 0 ∧ u.regs.raw = sentinel64 := by
  have hfew' := hfew
  rw [← availCount_elapse] at hfew'
  rcases pollTest_cases (elapse s) with ⟨h8, -⟩ | ⟨-, -, e⟩ | ⟨-, hne, -⟩
  · omega
  · have htest := goes_pollTest hp hq ha e nofun rfl
    have hexpire : EndsListening .replyTimeout [] 1 0 (enterTimedOut (chanAvail (elapse s)))
        { enterTimedOut (chanAvail (elapse s)) with
          regs := { (enterTimedOut (chanAvail (elapse s))).regs with raw := sentinel64 } } :=
      ⟨runOperation_next nofun (tick_timedOut rfl), .of_unchanged rfl rfl, rfl, rfl, rfl, rfl, id⟩
    exact ⟨_, htest.ends hexpire, hc, rfl⟩
  · exact absurd hc hne

/-! #### The poll's end -/

/-- A poll has ended: by a reply within the budget left, or with the budget spent (R97, R106). -/
inductive PollEnds (s : State) : Prop where
  | reply (polls : List Nat) (last : Nat) (reply : List U8) (u : State)
      (hends : EndsListening .ok (pollCalls s.params.pollDelayUs polls ++ ([.avail last] ++ reply.map Call.read))
        (2 * polls.length + 9) (2 * polls.length + 9) s u)
      (hfew : ∀ n ∈ polls, n < 8) (hpolls : polls.length ≤ s.regs.cnt) (hlast : 8 ≤ last) (hlen : reply.length = 8)
      (hraw : u.regs.raw = assemble reply)
  | timeout (polls : List Nat) (last : Nat) (u : State)
      (hends : EndsListening .replyTimeout (pollCalls s.params.pollDelayUs polls ++ [.avail last])
        (2 * polls.length + 2) (2 * polls.length + 1) s u)
      (hfew : ∀ n ∈ polls, n < 8) (hpolls : polls.length = s.regs.cnt) (hlast : last < 8) (hcnt : u.regs.cnt = 0)
      (hraw : u.regs.raw = sentinel64)

/-- The poll whose `m` rounds see too few bytes, and whose next test sees enough. -/
theorem poll_replies {m : Nat} (hp : s.phase = .waiting) (hq : s.regs.point = .test) (hm : m ≤ s.regs.cnt)
    (ha : (slotsOf (2 * m + 9) s.env).all Slot.answers = true) (hfew : ∀ n ∈ pollCounts m s.env, n < 8)
    (h8 : 8 ≤ s.env.rx.length + (arrivalsOf (2 * m + 1) s.env).length) :
    ∃ last reply u, EndsListening .ok (pollCalls s.params.pollDelayUs (pollCounts m s.env) ++
      ([.avail last] ++ reply.map Call.read)) (2 * m + 9) (2 * m + 9) s u ∧ 8 ≤ last ∧ reply.length = 8 ∧
      u.regs.raw = assemble reply := by
  obtain ⟨t, hgo, htp, htq, -⟩ := goes_poll hp hq hm (slotsAnswer_of_le (by omega) ha) hfew
  have hseen : t.env.rx.length + (arrivalsOf 1 t.env).length =
      s.env.rx.length + (arrivalsOf (2 * m + 1) s.env).length := by
    simpa using hgo.2.accounted.buffered 1
  obtain ⟨reply, u, hends, hlen, hraw⟩ := endsListening_reply htp htq (hgo.2.accounted.slotsAnswer 9 ha)
    (hseen ▸ h8)
  exact ⟨_, reply, u, hgo.ends hends, hseen ▸ h8, hlen, hraw⟩

/-- The poll whose every test sees too few bytes. -/
theorem poll_expires (hp : s.phase = .waiting) (hq : s.regs.point = .test)
    (ha : (slotsOf (2 * s.regs.cnt + 1) s.env).all Slot.answers = true)
    (hfew : ∀ n ∈ pollCounts (s.regs.cnt + 1) s.env, n < 8) :
    ∃ u, EndsListening .replyTimeout (pollCalls s.params.pollDelayUs (pollCounts s.regs.cnt s.env) ++
      [.avail (s.env.rx.length + (arrivalsOf (2 * s.regs.cnt + 1) s.env).length)])
      (2 * s.regs.cnt + 2) (2 * s.regs.cnt + 1) s u ∧ u.regs.cnt = 0 ∧ u.regs.raw = sentinel64 := by
  rw [pollCounts_succ] at hfew
  obtain ⟨hbefore, hlast⟩ := List.forall_mem_append.mp hfew
  obtain ⟨t, hgo, htp, htq, hcnt⟩ := goes_poll hp hq le_rfl (slotsAnswer_of_le (by omega) ha) hbefore
  have hseen : t.env.rx.length + (arrivalsOf 1 t.env).length =
      s.env.rx.length + (arrivalsOf (2 * s.regs.cnt + 1) s.env).length := by
    simpa using hgo.2.accounted.buffered 1
  obtain ⟨u, hends, hu⟩ := endsListening_timeout htp htq (slot_answers (hgo.2.accounted.slotsAnswer 1 ha))
    (hcnt.trans (Nat.sub_self _)) (hseen.trans_lt (hlast _ (List.mem_singleton_self _)))
  exact ⟨u, hseen ▸ hgo.ends hends, hu⟩

/-- On a channel whose calls return every poll ends (R108). -/
theorem pollEnds_of_prompt (hp : s.phase = .waiting) (hq : s.regs.point = .test) (hpr : s.env.prompt = true) :
    PollEnds s := by
  by_cases hex : ∃ m, m ≤ s.regs.cnt ∧ 8 ≤ s.env.rx.length + (arrivalsOf (2 * m + 1) s.env).length
  · obtain ⟨hm, h8⟩ := Nat.find_spec hex
    have hfew : ∀ n ∈ pollCounts (Nat.find hex) s.env, n < 8 := forall_mem_pollCounts.mpr fun i hi =>
      Nat.lt_of_not_le fun hi8 => Nat.find_min hex hi ⟨hi.le.trans hm, hi8⟩
    obtain ⟨last, reply, u, hends, hlast, hlen, hraw⟩ := poll_replies hp hq hm (slotsAnswer_of_prompt _ hpr) hfew h8
    exact .reply (pollCounts (Nat.find hex) s.env) last reply u (by simpa using hends) hfew (by simpa using hm)
      hlast hlen hraw
  · have hfew : ∀ n ∈ pollCounts (s.regs.cnt + 1) s.env, n < 8 := forall_mem_pollCounts.mpr fun i hi =>
      Nat.lt_of_not_le fun hi8 => hex ⟨i, Nat.le_of_lt_succ hi, hi8⟩
    obtain ⟨u, hends, hcnt, hraw⟩ := poll_expires hp hq (slotsAnswer_of_prompt _ hpr) hfew
    rw [pollCounts_succ] at hfew
    obtain ⟨hbefore, hlast⟩ := List.forall_mem_append.mp hfew
    exact .timeout (pollCounts s.regs.cnt s.env) _ u (by simpa using hends) hbefore (pollCounts_length _ _)
      (hlast _ (List.mem_singleton_self _)) hcnt hraw

end

end Sys2Proof.Machine

/-! ### Listens that end

What the run of a listen comes to: its bound, its two call sequences, a silent line and a good read
(42_transport_driver.md R95, R97, R106, R108). -/

namespace Sys2Proof.Machine

/-! #### The end of a listen -/

theorem Listened.op {l : List Call} {n : Nat} {s t : State} (h : Listened l n s t) : t.regs.op = s.regs.op := by
  rw [h.regs]

/-- The end of a listen leaves the block idle and presents one completion, of the operation in progress. -/
theorem EndsListening.completes {st : Status} {l : List Call} {k n : Nat} {s u : State}
    (h : EndsListening st l k n s u) : ∃ t c, runOperation k s = .next t ∧ t.phase = .idle ∧
      t.calls = s.calls ++ l ∧ t.completions = s.completions ++ [c] ∧ c.op = s.regs.op := by
  obtain ⟨hrun, hlistened⟩ := h
  obtain ⟨v, st', e⟩ := finishListening_spec st u
  rw [e] at hrun
  exact ⟨_, _, hrun, rfl, hlistened.accounted.calls, congrArg (· ++ _) hlistened.completions, hlistened.op⟩

/-! #### The bound (R108) -/

/-- The operation completes within these ticks, with at most these tests of the channel. -/
def CompletesWithin (tests ticks : Nat) (s : State) : Prop :=
  ∃ (t : State) (l : List Call) (c : Completion), runOperation ticks s = .next t ∧ t.phase = .idle ∧
    t.calls = s.calls ++ l ∧ availsOf l ≤ tests ∧ t.completions = s.completions ++ [c] ∧ c.op = s.regs.op

theorem EndsListening.completesWithin {st : Status} {l : List Call} {k n tests ticks : Nat} {s u : State}
    (h : EndsListening st l k n s u) (hl : availsOf l ≤ tests) (hk : k ≤ ticks) : CompletesWithin tests ticks s := by
  obtain ⟨t, c, hrun, hidle, hcalls, hc⟩ := h.completes
  exact ⟨t, l, c, runOperation_mono hrun hidle hk, hidle, hcalls, hl, hc⟩

/-- A call that is no test costs one tick. -/
theorem Goes.completesWithin {c : Call} {tests ticks : Nat} {s t : State} (h : Goes [c] 1 s t)
    (hc : availsOf [c] = 0) (ht : CompletesWithin tests ticks t) : CompletesWithin tests (ticks + 1) s := by
  obtain ⟨u, l, d, hrun, hidle, hcalls, hl, hd, hop⟩ := ht
  obtain ⟨hgo, hlistened⟩ := h
  refine ⟨u, c :: l, d, ?_, hidle, by simp [hcalls, hlistened.accounted.calls], ?_, by rw [hd, hlistened.completions],
    hop.trans hlistened.op⟩
  · rw [Nat.add_comm]
    exact (runOperation_add hgo).trans hrun
  · rw [← List.singleton_append, availsOf_append, hc, Nat.zero_add]
    exact hl

/-- What is left of a poll is bounded by the budget left. -/
theorem PollEnds.completesWithin {s : State} (h : PollEnds s) :
    CompletesWithin (s.regs.cnt + 1) (2 * s.regs.cnt + 9) s := by
  cases h with
  | reply polls last reply u hends _ hpolls =>
    refine hends.completesWithin ?_ (by omega)
    simpa [availsOf_append, availsOf] using hpolls
  | timeout polls last u hends _ hpolls =>
    refine hends.completesWithin ?_ (by omega)
    simp [availsOf_append, availsOf, hpolls]

theorem CompletesWithin.mono {m m' n n' : Nat} {s : State} (h : CompletesWithin m n s) (hm : m ≤ m') (hn : n ≤ n') :
    CompletesWithin m' n' s := by
  obtain ⟨t, l, c, hrun, hidle, hcalls, hl, hc⟩ := h
  exact ⟨t, l, c, runOperation_mono hrun hidle hn, hidle, hcalls, hl.trans hm, hc⟩

/-- Settles O39: the echo delay comes before the poll, a poll delay leaves one less of the budget, and the poll ends
within what is left. -/
theorem listenIsBounded : Obligations.ListenIsBounded := by
  intro s hinv hp hpr
  obtain ⟨-, hcnt, hact⟩ := (inv_waiting_iff hp).mp hinv
  have ha : s.env.slot.answers = true := by simp [Slot.answers, Env.prompt_slot hpr]
  suffices CompletesWithin (s.params.replyBudget + 1) (2 * s.params.replyBudget + 10) s from this
  cases hq : s.regs.point with
  | first =>
    obtain ⟨t, hgo, htp, htq, htc⟩ := goes_startPoll hp hq ha
    have hends := (pollEnds_of_prompt htp htq (hgo.2.accounted.prompt hpr)).completesWithin
    exact hgo.completesWithin rfl (htc ▸ hends)
  | test =>
    have := hcnt (by simp [hq])
    exact (pollEnds_of_prompt hp hq hpr).completesWithin.mono (by omega) (by omega)
  | act =>
    have := hcnt (by simp [hq])
    have := hact hq
    obtain ⟨t, hgo, htp, htq, htc⟩ := goes_pollAgain hp hq ha
    have hends := (pollEnds_of_prompt htp htq (hgo.2.accounted.prompt hpr)).completesWithin
    exact (hgo.completesWithin rfl hends).mono (by omega) (by omega)

/-! #### The two call sequences (R106) -/

/-- A listen has ended with status `st` at the state `u`, after one of the two call sequences of R106. -/
def ListenResult (p : Params) (l : List Call) (st : Status) (u : State) : Prop :=
  (st = .ok ∧ ListenReply p l u.regs.raw) ∨
  (st = .replyTimeout ∧ ListenTimeout p l ∧ u.regs.cnt = 0 ∧ u.regs.raw = sentinel64)

/-- On a channel whose calls return, a listen whose drain can take all that comes in `k` rounds ends. -/
theorem listen_ends {k : Nat} {s : State} (hp : s.phase = .draining) (hq : s.regs.point = .first)
    (hpr : s.env.prompt = true) (hk : s.env.rx.length + (arrivalsOf (2 * k + 2) s.env).length ≤ k) :
    ∃ st l m n u, EndsListening st l m n s u ∧ m ≤ 2 * k + 2 * s.params.replyBudget + 12 ∧
      u.env.txPending = [] ∧ ListenResult s.params l st u := by
  obtain ⟨stale, t, hgo, htp, htq, hcnt, hpending, hpos, hlen, -⟩ :=
    goes_toPoll hp hq (slotsAnswer_of_prompt _ hpr) hk
  have hends := pollEnds_of_prompt htp htq (hgo.2.accounted.prompt hpr)
  cases hends with
  | reply polls last reply u hends hfew hpolls hlast hreply hraw =>
    rw [hcnt] at hpolls
    rw [hgo.2.params] at hends
    refine ⟨_, _, _, _, u, hgo.ends hends, by omega, hends.2.flushed hpending, .inl ⟨rfl, ?_⟩⟩
    exact ⟨stale, polls, last, reply, by simp, hpos, hfew, hpolls, hlast, hreply, hraw⟩
  | timeout polls last u hends hfew hpolls hlast hzero hraw =>
    rw [hcnt] at hpolls
    rw [hgo.2.params] at hends
    refine ⟨_, _, _, _, u, hgo.ends hends, by omega, hends.2.flushed hpending, .inr ⟨rfl, ?_, hzero, hraw⟩⟩
    exact ⟨stale, polls, last, by simp, hpos, hfew, hpolls, hlast⟩

/-- A listen hands nothing over (20_memory.md R40). -/
theorem ListenResult.writesOf {p : Params} {l : List Call} {st : Status} {u : State} (h : ListenResult p l st u) :
    writesOf l = [] := by
  rcases h with ⟨-, stale, polls, last, reply, rfl, -⟩ | ⟨-, ⟨stale, polls, last, rfl, -⟩, -⟩ <;>
    simp [writesOf_append, Machine.writesOf]

/-- From the listen's flush on, all that was pending has been sent. -/
theorem Listened.stream {p : Params} {l : List Call} {n : Nat} {st : Status} {s u : State} (h : Listened l n s u)
    (hr : ListenResult p l st u) (hu : u.env.txPending = []) : u.env.txSent = s.env.txSent ++ s.env.txPending := by
  simpa [hu, hr.writesOf] using h.accounted.sent

/-- An operation that ends within the ticks allowed on its channel is accepted, run and completed in one `exec`. -/
theorem exec_of_run_callBound {s t : State} {i : Instr} {n : Nat} (hi : isOperation i = true) (hp : s.phase = .idle)
    (h : runOperation n (started s i) = .next t) (ht : t.phase = .idle) (hn : n ≤ callBound s) : exec i s = .next t :=
  exec_of_run hp h ht (by rwa [callBound, started_env s hi, started_params])

/-- Settles O31: the listen ends after one of its two call sequences, and `awaitReply` presents RAW. -/
theorem awaitReplyCompletes : Obligations.AwaitReplyCompletes := by
  intro s hp hpr hd
  obtain ⟨k, hk, hbound⟩ := hd.bounded
  rw [Nat.zero_add] at hk
  obtain ⟨st, l, m, n, u, ⟨hrun, hlistened⟩, hm, hpending, hresult⟩ :=
    listen_ends (s := enterDraining (captureAwait true s)) rfl rfl hpr hk
  rw [finishListening_awaitReply st hlistened.op] at hrun
  rw [enterDraining_params, captureAwait_params] at hm hresult
  have hcompletions : (complete (.u64 u.regs.raw) st u).completions =
      s.completions ++ [⟨.awaitReply, .u64 u.regs.raw, st⟩] := by
    rw [complete_completions, hlistened.completions, hlistened.op]
    rfl
  refine ⟨_, l, exec_of_run_callBound rfl hp hrun rfl (by unfold callBound; omega), rfl, hlistened.accounted.calls, ?_,
    hpending, hlistened.stream hresult hpending, hlistened.params, hlistened.inbox, ?_⟩
  · rcases hresult with ⟨rfl, hreply⟩ | ⟨rfl, htimeout, hzero, hraw⟩
    · exact .inl ⟨_, hreply, rfl, hcompletions⟩
    · exact .inr ⟨htimeout, hzero, by rw [hcompletions, hraw]; rfl⟩
  · rw [complete_regs, hlistened.regs]
    exact ⟨rfl, rfl, rfl, rfl, rfl, rfl⟩

/-! #### The listen of a `read` (R95) -/

section
variable (a r : U8) (s : State)

/-- The listen of a `read` is entered when its own datagram is sent. -/
theorem readAfterRequest_eq : readAfterRequest a r s = enterDraining (datagramSent 4 (started s (.read true a r))) := by
  rw [show started s (.read true a r) = withOp .read s.completions (started s (.request true a r)) from rfl,
    datagramSent_withOp]
  rfl

theorem readAfterRequest_frame : (readAfterRequest a r s).regs = { s.regs with
      op := .read, chanPresent := true, addr := a, reg := r, dgram := (encodeRequest s.params a r).setWidth 64,
      txn := 4, txi := 4, point := .first } ∧
    (readAfterRequest a r s).params = s.params ∧ (readAfterRequest a r s).inbox = s.inbox ∧
    (readAfterRequest a r s).completions = s.completions := by
  obtain ⟨hregs, -, hparams, hinbox, hcompletions⟩ := datagramSent_frame 4 (started s (.read true a r))
  rw [readAfterRequest_eq, enterDraining_regs, hregs]
  exact ⟨rfl, hparams, hinbox, hcompletions⟩

variable {s} (ha : (slotsOf 5 s.env).all Slot.answers = true)
include ha

theorem readAfterRequest_accounted :
    Accounted (sendCalls 4 ((encodeRequest s.params a r).setWidth 64)) 5 s (readAfterRequest a r s) := by
  rw [readAfterRequest_eq]
  have h := datagramSent_accounted (n := 4) (s := started s (.read true a r)) rfl ha
  exact ⟨h.calls, h.answered, h.sent, h.taken, h.script, h.rest⟩

/-- A `read` goes on to listen after the five calls of its request. -/
theorem runOperation_readAfterRequest :
    runOperation 5 (started s (.read true a r)) = .next (readAfterRequest a r s) := by
  have hop : (readAfterRequest a r s).regs.op = .read := by rw [(readAfterRequest_frame a r s).1]
  rw [readAfterRequest_eq] at hop ⊢
  exact (runOperation_datagramSent (m := 3) (s := started s (.read true a r)) rfl rfl rfl rfl ha).trans
    (congrArg _ (if_pos hop))

/-- A `read` whose listen ends within the ticks allowed presents the decoding of RAW. -/
theorem exec_read_of_endsListening {st : Status} {l : List Call} {m n : Nat} {u : State} (hp : s.phase = .idle)
    (h : EndsListening st l m n (readAfterRequest a r s) u) (hm : 5 + m ≤ callBound s) :
    ∃ t, exec (.read true a r) s = .next t ∧ t.phase = .idle ∧ t.params = u.params ∧ t.inbox = u.inbox ∧
      t.regs = u.regs ∧ t.env = u.env ∧ t.calls = u.calls ∧ t.completions = s.completions ++
        [⟨.read, .u32 (decodeResponse s.params u.regs.raw).1, (decodeResponse s.params u.regs.raw).2⟩] := by
  obtain ⟨hrun, hlistened⟩ := h
  obtain ⟨hregs, hparams, -, hcompletions⟩ := readAfterRequest_frame a r s
  have hop : u.regs.op = .read := by rw [hlistened.op, hregs]
  rw [finishListening_read st hop, hlistened.params, hparams] at hrun
  exact ⟨_, exec_of_run_callBound rfl hp ((runOperation_add (runOperation_readAfterRequest a r ha)).trans hrun) rfl hm,
    rfl, rfl, rfl, rfl, rfl, rfl, by rw [complete_completions, hlistened.completions, hcompletions, hop]⟩

end

/-- Settles O32: the request is sent, the listen ends after one of its two call sequences, and `read` decodes RAW. -/
theorem readCompletes : Obligations.ReadCompletes := by
  intro s a r hp hpr hd
  obtain ⟨k, hk, hbound⟩ := hd.bounded
  have ha := slotsAnswer_of_prompt 5 hpr
  have hsent := readAfterRequest_accounted a r ha
  obtain ⟨hregs, hparams, hinbox, -⟩ := readAfterRequest_frame a r s
  obtain ⟨st, l, m, n, u, hends, hm, hpending, hresult⟩ := listen_ends (s := readAfterRequest a r s) rfl rfl
    (hsent.prompt hpr) ((hsent.arrived (readsOf_sendCalls _ _) (2 * k + 2)).trans_le hk)
  rw [hparams] at hm hresult
  have hacc := hsent.trans hends.2.accounted
  obtain ⟨t, hexec, hidle, htparams, htinbox, htregs, htenv, htcalls, htcompletions⟩ :=
    exec_read_of_endsListening a r ha hp hends (by unfold callBound; omega)
  refine ⟨t, l, hexec, hidle, by simpa [htcalls] using hacc.calls, ?_, by rw [htenv, hpending], ?_,
    htparams.trans (hends.2.params.trans hparams), htinbox.trans (hends.2.inbox.trans hinbox), ?_⟩
  · rw [htcompletions]
    rcases hresult with ⟨-, hreply⟩ | ⟨-, htimeout, -, hraw⟩
    · exact .inl ⟨_, hreply, rfl⟩
    · exact .inr ⟨htimeout, by rw [hraw]; rfl⟩
  · rw [htenv]
    simpa [hpending, writesOf_append, writesOf_sendCalls, hresult.writesOf] using hacc.sent
  · rw [htregs, hends.2.regs, hregs]
    exact ⟨rfl, rfl, rfl⟩

/-! #### A silent line (R108, 95_test_vectors.md V8) -/

/-- On a silent line nothing arrives during the next call, and the line stays silent. -/
theorem Env.silent_slot {e : Env} (h : e.silent = true) : e.slot.arrivals = [] := by
  cases hs : e.script <;> simp_all [Env.silent, Env.slot]

theorem Env.silent_elapse {e : Env} (h : e.silent = true) : e.elapse.silent = true := by
  cases hs : e.script <;> simp_all [Env.silent]

theorem arrivalsOf_silent (n : Nat) {e : Env} (h : e.silent = true) : arrivalsOf n e = [] := by
  induction n generalizing e with
  | zero => rfl
  | succ n ih => rw [arrivalsOf_succ, Env.silent_slot h, ih (Env.silent_elapse h), List.nil_append]

/-- Settles O34: the drain takes the buffer, and every test of the poll sees nothing until the budget is spent. -/
theorem silentLineTimesOut : Obligations.SilentLineTimesOut := by
  intro s hp hpr hsilent
  have hnone : ∀ n, arrivalsOf n s.env = [] := fun n => arrivalsOf_silent n hsilent
  obtain ⟨stale, t, hgo, htp, htq, hcnt, -, -, -, hstale⟩ :=
    goes_toPoll (s := enterDraining (captureAwait true s)) (k := s.env.rx.length) rfl rfl (slotsAnswer_of_prompt _ hpr)
      (by simp [hnone])
  obtain rfl : stale = staleOf s.env.rx := hstale (hnone _)
  have hrx : t.env.rx = [] := by simpa [readsOf_append, readsOf, hnone] using hgo.2.accounted.taken
  have hlater : ∀ n, arrivalsOf n t.env = [] := fun n =>
    (List.append_eq_nil_iff.mp ((hgo.2.accounted.arrivals n).symm.trans (hnone _))).2
  have hcounts : ∀ m, pollCounts m t.env = List.replicate m 0 := fun m => by simp [pollCounts, hrx, hlater]
  obtain ⟨u, hpoll, -, hraw⟩ := poll_expires htp htq (slotsAnswer_of_prompt _ (hgo.2.accounted.prompt hpr))
    (by simp [hcounts])
  have hempty : u.env.rx = [] := by
    simpa [readsOf_append, readsOf, hrx, hlater] using hpoll.2.accounted.taken
  rw [hcounts, hcnt, hrx, hlater, hgo.2.params] at hpoll
  obtain ⟨hrun, hlistened⟩ := hgo.ends hpoll
  rw [finishListening_awaitReply _ hlistened.op, staleOf_length, enterDraining_params, captureAwait_params] at hrun
  refine ⟨_, exec_of_run_callBound rfl hp hrun rfl (by unfold callBound; omega), rfl, hempty, ?_, ?_⟩
  · simpa using hlistened.accounted.calls
  · rw [complete_completions, hlistened.op, hraw, hlistened.completions]
    rfl

/-! #### A good read (R86, R95, R97, R98) -/

theorem wireBytes_length (n : Nat) (w : U64) : (wireBytes n w).length = n := by simp [wireBytes]

/-- The eight bytes of a word, assembled in wire order, are the word (20_memory.md R32, R33). -/
theorem assemble_wireBytes (w : U64) : assemble (wireBytes 8 w) = w := by
  refine BitVec.eq_of_getLsbD_eq fun i hi => ?_
  have hbyte : (wireBytes 8 w).getD (i / 8) 0 = byteAt w (i / 8) := by
    simp [wireBytes, List.getD_eq_getElem?_getD, show i / 8 < 8 by omega]
  rw [getLsbD_assemble _ hi, hbyte, byteAt, BitVec.getLsbD_extractLsb', Nat.div_add_mod]
  simp [Nat.mod_lt]

/-- The first calls bring a beginning of what more calls bring. -/
theorem arrivalsOf_prefix {m n : Nat} (h : m ≤ n) (e : Env) : arrivalsOf m e <+: arrivalsOf n e := by
  obtain ⟨k, rfl⟩ := Nat.exists_eq_add_of_le h
  exact ⟨_, (arrivalsOf_add m k e).symm⟩

/-- A read whose drain finds nothing, and whose reply is the first to arrive and is there at the test numbered `j`, ends
with RAW that reply, in `17 + 2 * j` calls. -/
theorem read_takes_reply {s : State} (a r : U8) {w : U64} {j : Nat} (hrx : s.env.rx = [])
    (hj : j ≤ s.params.replyBudget) (ha : (slotsOf (17 + 2 * j) s.env).all Slot.answers = true)
    (hbefore : arrivalsOf (7 + 2 * j) s.env = []) (hreply : arrivalsOf (8 + 2 * j) s.env = wireBytes 8 w) :
    ∃ l u, EndsListening .ok l (12 + 2 * j) (12 + 2 * j) (readAfterRequest a r s) u ∧ u.regs.raw = w := by
  have hsent := readAfterRequest_accounted a r (slotsAnswer_of_le (by omega) ha)
  have hnone : ∀ n ≤ 7 + 2 * j, arrivalsOf n s.env = [] := fun n hn =>
    List.prefix_nil.mp (hbefore ▸ arrivalsOf_prefix hn s.env)
  have hdrain := hsent.arrived (readsOf_sendCalls _ _) 2
  rw [hrx, hnone _ (by omega)] at hdrain
  obtain ⟨stale, t, hgo, htp, htq, hcnt, -, -, hlen, -⟩ := goes_toPoll (s := readAfterRequest a r s) (k := 0) rfl rfl
    (hsent.slotsAnswer 3 (slotsAnswer_of_le (by omega) ha)) hdrain.le
  obtain rfl : stale = [] := List.eq_nil_of_length_eq_zero (Nat.le_zero.mp hlen)
  replace hgo : Goes [.flush, .avail 0, .delay (readAfterRequest a r s).params.echoDelayUs] 3
    (readAfterRequest a r s) t := hgo
  have hstart := hsent.trans hgo.2.accounted
  have hseen : ∀ m, t.env.rx.length + (arrivalsOf m t.env).length = (arrivalsOf (8 + m) s.env).length := fun m => by
    simpa [hrx] using hstart.arrived (by rw [readsOf_append, readsOf_sendCalls]; rfl) m
  have hfew : ∀ n ∈ pollCounts j t.env, n < 8 := forall_mem_pollCounts.mpr fun i hi => by
    rw [hseen, hnone _ (by omega)]
    decide
  have henough : 8 ≤ t.env.rx.length + (arrivalsOf (2 * j + 1) t.env).length := by
    have hmono := arrivalsOf_length_mono (show 8 + 2 * j ≤ 8 + (2 * j + 1) by omega) s.env
    rwa [hreply, wireBytes_length, ← hseen] at hmono
  obtain ⟨last, reply, u, hpoll, -, hlen, hraw⟩ := poll_replies htp htq
    (by rwa [hcnt, (readAfterRequest_frame a r s).2.1]) (hstart.slotsAnswer _ (slotsAnswer_of_le (by omega) ha)) hfew
    henough
  have htaken : reply ++ u.env.rx = arrivalsOf (5 + 3 + (2 * j + 9)) s.env := by
    simpa [hrx, readsOf_append, readsOf_sendCalls, readsOf] using (hstart.trans hpoll.2.accounted).taken
  obtain ⟨later, hlater⟩ := arrivalsOf_prefix (show 8 + 2 * j ≤ 5 + 3 + (2 * j + 9) by omega) s.env
  rw [hreply] at hlater
  obtain ⟨hbytes, -⟩ := List.append_inj (htaken.trans hlater.symm) (hlen.trans (wireBytes_length 8 w).symm)
  have hends := hgo.ends hpoll
  rw [show 3 + (2 * j + 9) = 12 + 2 * j by omega] at hends
  exact ⟨_, u, hends, by rw [hraw, hbytes, assemble_wireBytes]⟩

/-- Settles O35: the reply is what the listen takes, and its decoding is the value it was made of. -/
theorem goodReadReturnsTheValue : Obligations.GoodReadReturnsTheValue := by
  intro s a r b0 b1 rf v j hp hrx hj hones ha hbefore hreply
  obtain ⟨l, u, hends, hraw⟩ := read_takes_reply a r hrx hj ha hbefore hreply
  obtain ⟨t, hexec, hidle, -, -, hregs, -, -, hcompletions⟩ := exec_read_of_endsListening a r
    (slotsAnswer_of_le (by omega) ha) hp hends (by unfold callBound; omega)
  obtain ⟨hcrc, hpay⟩ := makeResponse_fields s.params b0 b1 rf v
  have hdecode : decodeResponse s.params u.regs.raw = (v, .ok) := by
    rw [hraw, decodeResponse_of_valid hones hcrc, hpay, reverseBytes_reverseBytes]
  exact ⟨t, hexec, hidle, by rw [hregs, hraw], by rw [hcompletions, hdecode]⟩

end Sys2Proof.Machine

/-! ### Operations end once, and nothing done is undone

A block that accepts an operation always goes on, the operation ends with one completion of its own (60_exceptions.md
R116), and the records of what was called and presented only grow. -/

namespace Sys2Proof.Machine

/-- Settles O37: an idle block runs every instruction to a next state, and a datagram is received in every phase. -/
theorem idleBlockNeverStops : Obligations.IdleBlockNeverStops := by
  rintro i s (hp | hi)
  · obtain ⟨t, ht, -⟩ := exec_idle_next hp i
    exact ⟨t, ht⟩
  · exact ⟨_, exec_datagram hi s⟩

/-! #### One completion an operation (R116) -/

/-- The instruction runs to its end on `s`: PHASE is back in IDLE, and one completion has been presented, of `op`. -/
def EndsOnce (op : Op) (i : Instr) (s : State) : Prop :=
  ∃ (t : State) (c : Completion), exec i s = .next t ∧ t.phase = .idle ∧ c.op = op ∧
    t.completions = s.completions ++ [c]

/-- A pure operation ends in the step that accepts it (10_state.md R21). -/
theorem endsOnce_of_pure {i : Instr} {op : Op} {s : State} (hp : s.phase = .idle) (ho : opOf i = some op)
    (hc : op.code.getLsbD 3 = false) : EndsOnce op i s := by
  obtain ⟨hpure, -⟩ := phaseMovesAsTabled
  obtain ⟨c, hop, hexec⟩ := hpure i op s ho hc hp
  exact ⟨_, c, hexec, hp, hop, rfl⟩

/-- A transport operation without a channel ends at once (60_exceptions.md R111). -/
theorem endsOnce_of_absent {i : Instr} {op : Op} {s : State} (a r : U8) (v : U32) (hp : s.phase = .idle)
    (ho : opOf i = some op)
    (hi : i ∈ [Instr.write false a r v, .request false a r, .awaitReply false, .read false a r]) :
    EndsOnce op i s := by
  obtain ⟨g, c, hop, -, hexec⟩ := exec_absent a r v hp hi
  exact ⟨_, c, hexec, hp, Option.some.inj (hop.trans ho), rfl⟩

theorem endsOnce_write {s : State} (a r : U8) (v : U32) (hp : s.phase = .idle) (hpr : s.env.prompt = true) :
    EndsOnce .write (.write true a r v) s := by
  obtain ⟨t, hexec, hidle, -, hcompletions, -⟩ :=
    writeSendsItsDatagram.2 s a r v hp (slotsAnswer_of_prompt 9 hpr)
  exact ⟨t, _, hexec, hidle, rfl, hcompletions⟩

theorem endsOnce_request {s : State} (a r : U8) (hp : s.phase = .idle) (hpr : s.env.prompt = true) :
    EndsOnce .request (.request true a r) s := by
  obtain ⟨t, hexec, hidle, -, hcompletions, -⟩ :=
    requestSendsItsDatagram.2 s a r hp (slotsAnswer_of_prompt 5 hpr)
  exact ⟨t, _, hexec, hidle, rfl, hcompletions⟩

/-- `awaitReply` ends with a reply or with a timeout, once its drain does (42_transport_driver.md R108). -/
theorem endsOnce_awaitReply {s : State} (hp : s.phase = .idle) (hpr : s.env.prompt = true)
    (hd : DrainEnds 0 s.env) : EndsOnce .awaitReply (.awaitReply true) s := by
  obtain ⟨t, l, hexec, hidle, -, hresult, -⟩ := awaitReplyCompletes s hp hpr hd
  rcases hresult with ⟨raw, -, -, hcompletions⟩ | ⟨-, -, hcompletions⟩
  · exact ⟨t, _, hexec, hidle, rfl, hcompletions⟩
  · exact ⟨t, _, hexec, hidle, rfl, hcompletions⟩

/-- `read` ends with the decoding of a reply or with a timeout, once its drain does (R108). -/
theorem endsOnce_read {s : State} (a r : U8) (hp : s.phase = .idle) (hpr : s.env.prompt = true)
    (hd : DrainEnds 5 s.env) : EndsOnce .read (.read true a r) s := by
  obtain ⟨t, l, hexec, hidle, -, hresult, -⟩ := readCompletes s a r hp hpr hd
  rcases hresult with ⟨raw, -, hcompletions⟩ | ⟨-, hcompletions⟩
  · exact ⟨t, _, hexec, hidle, rfl, hcompletions⟩
  · exact ⟨t, _, hexec, hidle, rfl, hcompletions⟩

/-- Settles O36: a pure operation and one without a channel end as they are accepted, the two that only send end when
their calls return, and the two that listen end when their drain does. -/
theorem everyOperationEndsOnce : Obligations.EveryOperationEndsOnce := by
  intro i op s ho hp hpr hawait hread
  suffices EndsOnce op i s from this
  cases i with
  | writeDatagram | requestDatagram | responseDatagram => cases ho
  | byteCRC | wordCRC | startSeed | reverseBytes | encodeWrite | encodeRequest | decodeResponse =>
    exact endsOnce_of_pure hp ho (by cases ho; rfl)
  | write c a r v =>
    cases c
    · exact endsOnce_of_absent a r v hp ho (by simp)
    · cases ho; exact endsOnce_write a r v hp hpr
  | request c a r =>
    cases c
    · exact endsOnce_of_absent a r 0 hp ho (by simp)
    · cases ho; exact endsOnce_request a r hp hpr
  | awaitReply c =>
    cases c
    · exact endsOnce_of_absent 0 0 0 hp ho (by simp)
    · cases ho; exact endsOnce_awaitReply hp hpr (hawait rfl)
  | read c a r =>
    cases c
    · exact endsOnce_of_absent a r 0 hp ho (by simp)
    · cases ho; exact endsOnce_read a r hp hpr (hread rfl)

/-! #### The record of calls only grows -/

theorem calls_prefix_tick {s t : State} (hb : s.phase ≠ .idle) (h : tick s = .next t) : s.calls <+: t.calls := by
  obtain ⟨l, n, hacc⟩ := tick_accounted hb h
  exact ⟨l, hacc.calls.symm⟩

theorem calls_prefix_step {s t : State} (h : step s = .next t) : s.calls <+: t.calls := by
  refine step_induction (P := fun u => s.calls <+: u.calls) ?_ ?_ ?_ ?_ List.prefix_rfl h
  · exact fun u v hb hu ht => hu.trans (calls_prefix_tick hb ht)
  · exact fun u i _ hu => started_calls u i ▸ hu
  · exact fun u rest _ hu => hu
  · exact fun u bytes _ hu => hu

/-! #### At most one completion a step (10_state.md R14) -/

/-- From the completions `ds` on, nothing has been presented, or one completion has and the block is idle with it. That
the block is idle is why no second one follows. -/
def PresentedOnce (ds : List Completion) (t : State) : Prop :=
  t.completions = ds ∨ (t.phase = .idle ∧ ∃ c, t.completions = ds ++ [c])

theorem PresentedOnce.complete {s : State} (v : Result) (st : Status) :
    PresentedOnce s.completions (complete v st s) := .inr ⟨rfl, _, rfl⟩

theorem PresentedOnce.finishListening {s : State} (st : Status) :
    PresentedOnce s.completions (finishListening st s) := by
  obtain ⟨v, st', e⟩ := finishListening_spec st s
  rw [e]
  exact .complete v st'

/-- A call that returned presents a completion at the end of an operation alone. -/
theorem Returned.presentedOnce {s t : State} (h : Returned s t) : PresentedOnce s.completions t := by
  cases h with
  | sendFlush | listenFlush | drainByte | startPoll | pollAgain => exact .inl rfl
  | sendByte =>
    rcases sendByte_cases s with ⟨-, e⟩ | ⟨-, -, e⟩ | ⟨-, -, e⟩ <;> rw [e]
    · exact .inl rfl
    · exact .inl rfl
    · exact .complete (s := byteSent s) _ _
  | drainTest =>
    rcases drainTest_cases s with ⟨-, e⟩ | ⟨-, e⟩ <;> rw [e] <;> exact .inl rfl
  | pollTest =>
    rcases pollTest_cases s with ⟨-, e⟩ | ⟨-, -, e⟩ | ⟨-, -, e⟩ <;> rw [e] <;> exact .inl rfl
  | takeByte b =>
    rcases takeByte_cases b (readDone b s) with ⟨-, e⟩ | ⟨-, e⟩ <;> rw [e]
    · exact .inl rfl
    · exact .finishListening (s := byteTaken b (readDone b s)) _

theorem tick_presentedOnce {s t : State} (hb : s.phase ≠ .idle) (h : tick s = .next t) :
    PresentedOnce s.completions t := by
  rcases tick_cases hb h with ⟨-, rfl⟩ | ⟨-, ⟨-, rfl⟩ | ⟨-, rfl⟩ | ⟨-, hr⟩⟩
  · exact .finishListening (s := { s with regs := { s.regs with raw := sentinel64 } }) _
  · exact .inl rfl
  · exact .inl rfl
  · exact hr.presentedOnce

/-- An instruction that has ended with its start has presented its completion, any other none yet. -/
theorem started_presentedOnce {s : State} (hp : s.phase = .idle) (i : Instr) :
    PresentedOnce s.completions (started s i) := by
  cases i with
  | byteCRC | wordCRC | startSeed | reverseBytes | encodeWrite | encodeRequest | decodeResponse =>
    exact .inr ⟨hp, _, rfl⟩
  | write c | request c | awaitReply c | read c =>
    cases c
    · exact .inr ⟨rfl, _, rfl⟩
    · exact .inl rfl
  | writeDatagram | requestDatagram | responseDatagram => exact .inl rfl

/-- A tick of a BUSY block may present the completion only because none has been presented before it. -/
theorem PresentedOnce.tick {ds : List Completion} {s t : State} (hb : s.phase ≠ .idle) (h : PresentedOnce ds s)
    (ht : tick s = .next t) : PresentedOnce ds t := by
  rcases h with rfl | ⟨hp, -⟩
  · exact tick_presentedOnce hb ht
  · exact absurd hp hb

theorem exec_idle_presentedOnce {s t : State} {i : Instr} (hp : s.phase = .idle) (h : exec i s = .next t) :
    PresentedOnce s.completions t := by
  rw [exec_eq_runToIdle_started hp] at h
  exact runOperation_induction (P := PresentedOnce s.completions) (fun _ _ hb hu ht => hu.tick hb ht)
    (started_presentedOnce hp i) h

theorem step_presentedOnce {s t : State} (h : step s = .next t) : PresentedOnce s.completions t := by
  by_cases hp : s.phase = .idle
  · rcases step_idle_cases hp h with ⟨-, rfl⟩ | ⟨f, rest, -, ⟨i, -, hexec⟩ | ⟨dir, bytes, -, rfl⟩⟩
    · exact .inl rfl
    · exact exec_idle_presentedOnce (s := { s with inbox := rest }) hp hexec
    · exact .inl rfl
  · exact tick_presentedOnce hp (step_busy hp ▸ h)

/-- Settles O48: every tick only adds calls, and a completion leaves the block idle, so that no second one follows in the
step. -/
theorem recordsOnlyGrow : Obligations.RecordsOnlyGrow := by
  intro s t h
  obtain ⟨l, hcalls⟩ := calls_prefix_step h
  exact ⟨⟨l, hcalls.symm⟩, (step_presentedOnce h).imp_right fun ⟨_, hc⟩ => hc⟩

end Sys2Proof.Machine

/-! ### A block that is held or cut short (70_reset_and_hazards.md)

Under the invariant a step of a BUSY block is one primitive call, so how that call ends decides what the step does: a
call that never returns and a drain of an endless line hold the block for any number of steps, a reset ends the
operation. -/

namespace Sys2Proof.Machine

/-! #### Any number of steps -/

theorem core_run_next {M : Host.Core} {n : Nat} {s t : M.State} (h : M.step s = .next t) :
    M.run (n + 1) s = M.run n t := by
  rw [Host.Core.run, h]

/-- The induction of any number of steps, packaged once: a machine goes on, and meets `P`, when every step from a state
that meets `P` answers a next state that meets it. -/
theorem core_run_progress {M : Host.Core} {P : M.State → Prop} (hstep : ∀ s, P s → ∃ t, M.step s = .next t ∧ P t)
    (n : Nat) {s : M.State} (h : P s) : ∃ t, M.run n s = .next t ∧ P t := by
  induction n generalizing s with
  | zero => exact ⟨s, rfl, h⟩
  | succ n ih =>
    obtain ⟨u, hu, hp⟩ := hstep s h
    rw [core_run_next hu]
    exact ih hp

/-- Under the invariant a step of a BUSY block, but for the last one of a timeout, is one primitive call. -/
theorem step_eq_call {s : State} (h : s.inv = true) (hb : s.phase ≠ .idle) (ht : s.phase ≠ .timedOut) :
    step s = call s fun s => .next (afterCall s) := by
  rw [step_busy hb, tick_eq_call hb ht (rx_ne_nil_of_reading h)]

/-! #### The reset input (R130 to R132) -/

/-- A reset during the call of a BUSY block is all that comes of the step, beside the channel's own bytes. -/
theorem step_of_reset {s : State} (h : s.inv = true) (hb : s.phase ≠ .idle) (ht : s.phase ≠ .timedOut)
    (he : s.env.slot.ending = .reset) : step s = .next (applyReset (elapse s)) := by
  rw [step_eq_call h hb ht, call_reset he]

/-- Settles O46: the step is the reset input after the time of the call, and neither touches more than PHASE and the
channel's bytes. -/
theorem resetAbandonsTheOperation : Obligations.ResetAbandonsTheOperation := by
  refine ⟨fun _ => rfl, fun s h hb ht he => ?_⟩
  exact ⟨applyReset (elapse s), step_of_reset h hb ht he, rfl, rfl, rfl, rfl, rfl, rfl, Env.elapse_stream _, rfl⟩

/-! #### A call that never returns (R138) -/

theorem step_of_pending {s : State} (h : s.inv = true) (hb : s.phase ≠ .idle) (ht : s.phase ≠ .timedOut)
    (he : s.env.slot.ending = .pending) : step s = .next (elapse s) := by
  rw [step_eq_call h hb ht, call_pending he]

/-- No call returns on this channel: the script is over, and what the channel does ever after is to keep the block
waiting. -/
def Env.hung (e : Env) : Prop := e.script = [] ∧ e.rest.ending = .pending

theorem Env.hung_slot {e : Env} (h : e.hung) : e.slot.ending = .pending := by
  obtain ⟨hscript, hrest⟩ := h
  rw [Env.slot, hscript, hrest]

theorem Env.hung_elapse {e : Env} (h : e.hung) : e.elapse.hung := by
  obtain ⟨hscript, hrest⟩ := h
  exact ⟨by simp [hscript], hrest⟩

/-- `t` is the block of `s` still in the call of `s`, on a channel where no call returns. -/
structure HeldAt (s t : State) : Prop where
  inv : t.inv = true
  hung : t.env.hung
  phase : t.phase = s.phase
  regs : t.regs = s.regs
  calls : t.calls = s.calls
  completions : t.completions = s.completions

theorem HeldAt.elapse {s t : State} (h : HeldAt s t) : HeldAt s (elapse t) :=
  { h with inv := inv_elapse h.inv, hung := Env.hung_elapse h.hung }

/-- Settles O41: every step is the time of the call and no more, and it leaves the block in that call. -/
theorem hungCallHolds : Obligations.HungCallHolds := by
  intro s n h hb ht hscript hrest
  have hstep : ∀ u, HeldAt s u → ∃ v, step u = .next v ∧ HeldAt s v := fun u hu =>
    ⟨elapse u, step_of_pending hu.inv (hu.phase ▸ hb) (hu.phase ▸ ht) (Env.hung_slot hu.hung), hu.elapse⟩
  obtain ⟨t, hrun, hheld⟩ := core_run_progress (M := core) hstep n ⟨h, ⟨hscript, hrest⟩, rfl, rfl, rfl, rfl⟩
  exact ⟨t, hrun, hheld.phase, hheld.regs, hheld.calls, hheld.completions⟩

/-! #### A line that never falls silent (R99, R138) -/

theorem Env.neverSilent_slot {e : Env} (h : e.neverSilent = true) : e.slot.arrivals ≠ [] := by
  cases hs : e.script <;> simp_all [Env.neverSilent, Env.slot]

/-- A line that never falls silent stays one. -/
theorem Accounted.neverSilent {l : List Call} {n : Nat} {s t : State} (h : Accounted l n s t)
    (hs : s.env.neverSilent = true) : t.env.neverSilent = true := by
  simp only [Env.neverSilent, Bool.and_eq_true, List.all_eq_true] at hs ⊢
  rw [h.script, h.rest]
  exact ⟨fun x hx => hs.1 x (List.mem_of_mem_drop hx), hs.2⟩

/-- A returned call of the drain leaves it only when the buffer is empty. -/
theorem Returned.draining {s t : State} (hr : Returned s t) (hp : s.phase = .draining) (hrx : s.env.rx ≠ []) :
    t.phase = .draining ∧ t.completions = s.completions := by
  cases hr with
  | listenFlush | drainByte => exact ⟨hp, rfl⟩
  | drainTest =>
    rcases drainTest_cases s with ⟨hnil, -⟩ | ⟨-, e⟩
    · exact absurd hnil hrx
    · rw [e]; exact ⟨hp, rfl⟩
  | sendFlush hp' | sendByte hp' | startPoll hp' | pollTest hp' | pollAgain hp' | takeByte _ hp' =>
    exact absurd (hp.symm.trans hp') nofun

/-- The block drains a line whose calls return and that never falls silent, and has presented `ds`. -/
structure DrainsEndlessLine (ds : List Completion) (s : State) : Prop where
  inv : s.inv = true
  phase : s.phase = .draining
  prompt : s.env.prompt = true
  neverSilent : s.env.neverSilent = true
  completions : s.completions = ds

/-- The byte that arrives during the test is there for it to see, so the drain goes on. -/
theorem DrainsEndlessLine.step {ds : List Completion} {s : State} (h : DrainsEndlessLine ds s) :
    ∃ t, step s = .next t ∧ DrainsEndlessLine ds t := by
  have hb : s.phase ≠ .idle := by simp [h.phase]
  obtain ⟨t, ht, hinv⟩ := tick_progress hb h.inv
  have hret : s.env.slot.ending = .returns := Env.prompt_slot h.prompt
  obtain ⟨hphase, hcompletions⟩ : t.phase = .draining ∧ t.completions = s.completions := by
    rcases tick_cases hb ht with ⟨hp, -⟩ | ⟨-, ⟨he, -⟩ | ⟨he, -⟩ | ⟨-, hr⟩⟩
    · simp [h.phase] at hp
    · simp [hret] at he
    · simp [hret] at he
    · exact hr.draining h.phase (by simp [Env.neverSilent_slot h.neverSilent])
  obtain ⟨_, _, hacc⟩ := tick_accounted hb ht
  exact ⟨t, step_busy hb ▸ ht, hinv, hphase, hacc.prompt h.prompt, hacc.neverSilent h.neverSilent,
    hcompletions.trans h.completions⟩

/-- Settles O40: a drain of an endless line goes on with every step. -/
theorem endlessDrain : Obligations.EndlessDrain := by
  intro s n h hp hpr hns
  obtain ⟨t, hrun, hd⟩ := core_run_progress (M := core) (fun _ hu => DrainsEndlessLine.step hu) n ⟨h, hp, hpr, hns, rfl⟩
  exact ⟨t, hrun, hd.phase, hd.completions⟩

end Sys2Proof.Machine
